-- ==== Sys2Proof/Word.lean ====
section
/-! DEFINITION. Sys2Proof/Word.lean: the widths of the machine (spec/00_scope.md R5, R8).
Bytes, 16-bit instruction words and 32-bit long words are bit vectors; an operand of size n < 32 is held
in the low n bits of a `Long`. All helpers over them (truncation, sign extension, byte order) stand in
Sys2Proof/Machine/Flags.lean and Sys2Proof/Machine/Ops.lean. -/

namespace Sys2Proof

/-- An 8-bit byte (R8). -/
abbrev Byte := BitVec 8

/-- A 16-bit word: operation words, extension words, word operands (R8, R100). -/
abbrev Word := BitVec 16

/-- A 32-bit long word: registers, addresses, long operands (R5, R8). -/
abbrev Long := BitVec 32

/-- The three operand sizes B, W, L (R8). -/
inductive Size where
  | b | w | l
  deriving DecidableEq, Repr

/-- `n` of the pseudocode: the operand width in bits (R8). -/
def Size.bits : Size → Nat
  | .b => 8
  | .w => 16
  | .l => 32

/-- `nb` of the pseudocode: the operand width in bytes (R8). -/
def Size.bytes : Size → Nat
  | .b => 1
  | .w => 2
  | .l => 4

/-- One of the five hardware contexts; 0 is the Master Context MC0 (R40). -/
abbrev CtxId := Fin 5

end Sys2Proof
end

