-- ==== Sys2Proof/Config.lean ====
section
/-! DEFINITION. Sys2Proof/Config.lean: what the spec leaves to an implementation.

* `Params` holds the named parameters of spec/92_eei_decisions.md §2 as plain data. It is a field of the
  machine's State, so a statement about every state holds for every value of every parameter;
  `Params.default` is the spec's own default of each (log 1).
* The `opaque` constants are the spec's `undef` (R15): nothing in Lean can say what they are (log 2). -/

namespace Sys2Proof

/-- The free values of R15: draw number k is `freeLong k`. No body that a proof could see: any fact that holds
of it holds whatever the hardware produces (log 2). -/
opaque Config.freeLong : Nat → BitVec 32

/-- The run state of a context (R42). -/
inductive CtxState where
  /-- may be given the CPU by the scheduler -/
  | ready
  /-- waits for an interrupt or for MC0 to mark it ready -/
  | notReady
  /-- never scheduled: absent at reset (R503), or stopped by BKPT in JTAG mode (R430) -/
  | halted
  deriving DecidableEq, Repr

/-- `CTX_SCHED` (R43): which of several READY contexts other than MC0 runs is not in the spec. The answer is
used modulo the number of READY contexts, so that it always names one of them (log 3). -/
opaque Config.schedChoice : List CtxState → Nat → Nat

/-- `MISALIGN_POLICY` (R66). -/
inductive MisalignPolicy where
  | fault | split
  deriving DecidableEq, Repr

/-- `A7_BYTE_STEP` (R68): how far a byte push or pop moves A7. -/
inductive A7Step where
  | one | two
  deriving DecidableEq, Repr

/-- `PREFETCH_HAZARD` (R77). -/
inductive PrefetchPolicy where
  | refuse | coherent
  deriving DecidableEq, Repr

/-- `MOVEM_SELF_LOAD` (R168). -/
inductive MovemSelfLoad where
  | finalAddress | fetchedPlusSize
  deriving DecidableEq, Repr

/-- `FAULT_POLICY` (R465). -/
inductive FaultPolicy where
  | terminal | vectored
  deriving DecidableEq, Repr

/-- `TRACE_POLICY` (R475). -/
inductive TracePolicy where
  | refuse | ignore | cpu32
  deriving DecidableEq, Repr

/-- What a write to a `rom` region does: the host's choice (R78, U16). -/
inductive RomPolicy where
  | ignore | busError
  deriving DecidableEq, Repr

/-- What happens where the spec leaves a value `undef`, advises a model to refuse, and an execution is still possible: a
register stored through its own `(An)+` or `-(An)` (R72, U8), a 64-bit product in one register (R254, R255, U9). The
model's own parameter (logs 13 and 14). -/
inductive UndefPolicy where
  /-- the value is a free one and the instruction runs -/
  | free
  /-- the program is refused (R516) -/
  | refuse
  deriving DecidableEq, Repr

/-- `SR_LAYOUT` (R27): where software sees T1, T0, S and I2–I0 in SR, as bits of its high byte; the low byte is the CCR
(R25, R26). -/
structure SrLayout where
  t1 : Fin 8
  t0 : Fin 8
  s : Fin 8
  i2 : Fin 8
  i1 : Fin 8
  i0 : Fin 8
  deriving DecidableEq, Repr

/-- The default of R27: T1 15, T0 14, S 13, I2–I0 10–8. -/
def SrLayout.default : SrLayout := { t1 := 7, t0 := 6, s := 5, i2 := 2, i1 := 1, i0 := 0 }

/-- The six fields stand at six places. -/
def SrLayout.distinct (l : SrLayout) : Bool := decide [l.t1, l.t0, l.s, l.i2, l.i1, l.i0].Nodup

/-- The kinds of address `MEM_MAP` tells apart (R78). -/
inductive RegionKind where
  | ram | rom | device (id : Nat) | unmapped
  deriving DecidableEq, Repr

/-- One region of `MEM_MAP` (R78): `size` bytes from `base`. -/
structure Region where
  base : Nat
  size : Nat
  kind : RegionKind
  deriving DecidableEq, Repr

/-- The `VEC_*` parameters (R454): vector numbers doc00 does not print. -/
structure Vectors where
  busError : Byte
  addressError : Byte
  illegal : Byte
  zeroDivide : Byte
  privilege : Byte
  lineA : Byte
  lineF : Byte
  trace : Byte
  formatError : Byte
  resetSsp : Byte
  resetPc : Byte
  deriving DecidableEq, Repr

/-- The defaults of R454. -/
def Vectors.default : Vectors :=
  { busError := 2, addressError := 3, illegal := 4, zeroDivide := 5, privilege := 8,
    lineA := 10, lineF := 11, trace := 12, formatError := 14, resetSsp := 0, resetPc := 1 }

/-- The parameters of spec/92_eei_decisions.md §2 that are plain values. `CTX_SCHED` is `Config.schedChoice`;
`RESET_STATE`, `CTX_INIT`, `IRQ` and `MOVEC_EXT_CODES` are fields of State. -/
structure Params where
  /-- `SR_LAYOUT` (R27; log 4) -/
  srLayout : SrLayout
  vec : Vectors
  misalign : MisalignPolicy
  a7Step : A7Step
  /-- `ADDR_BITS` (R60): the address bits the machine drives; an access reaches the byte at its address modulo
  2 ^ `addrBits` (log 5). -/
  addrBits : Nat
  memMap : List Region
  /-- The host's choice for a write to rom (R78, U16). -/
  romWrite : RomPolicy
  prefetch : PrefetchPolicy
  /-- `FC_WIDTH`: implemented bits of SFC and DFC (R32); a width of 32 or more is all 32 bits. -/
  fcWidth : Nat
  movemSelfLoad : MovemSelfLoad
  faultPolicy : FaultPolicy
  tracePolicy : TracePolicy
  /-- `IRQ_NMI7`: whether level 7 passes the mask (R471). -/
  irqNmi7 : Bool
  /-- `STD_INT_MODE[i]`: Standard Interrupt Mode of each context (R45). -/
  stdIntMode : Vector Bool 5
  /-- `DCR_BKPT`: the BKPT bit of the Debug Control Register (R45). -/
  dcrBkpt : Bool
  /-- `JTAG_BKPT_MODE`: the break-point-mode bit of the JTAG scan chain (R45). -/
  jtagBkptMode : Bool
  /-- No parameter of the spec: the choice between its `undef` and its advice to refuse (logs 13 and 14). -/
  undefined : UndefPolicy
  deriving DecidableEq, Repr

/-- The default of every parameter (spec/92_eei_decisions.md §2). Three values are the model's choice: `stdIntMode`,
which has no default there (log 6); `romWrite`, the host's choice of R78 and U16, to which no file gives a default
(log 47); and `undefined`, the model's own parameter (logs 13 and 14). -/
def Params.default : Params :=
  { srLayout := SrLayout.default, vec := Vectors.default, misalign := .fault, a7Step := .two, addrBits := 32,
    memMap := [], romWrite := .ignore,
    prefetch := .refuse, fcWidth := 3, movemSelfLoad := .finalAddress, faultPolicy := .terminal,
    tracePolicy := .refuse, irqNmi7 := false,
    stdIntMode := #v[false, false, false, false, false],
    dcrBkpt := false, jtagBkptMode := false, undefined := .free }

end Sys2Proof
end

