-- ==== Sys2Proof/Syntax.lean ====
section
/-! DEFINITION. Sys2Proof/Syntax.lean: the abstract instructions and operands (spec/30_encoding.md, opcode_table.json).
Raw encodings end at Sys2Proof/Decode.lean; the machine sees these terms only. -/

namespace Sys2Proof

/-- The index fields shared by the brief and the full extension word (R118, R119). -/
structure Index where
  /-- D/A and Register: bit 3 set selects an address register -/
  reg : BitVec 4
  /-- W/L: the whole register when set, its sign-extended low word otherwise -/
  long : Bool
  /-- Scale: the exponent of 1, 2, 4, 8 -/
  scale : BitVec 2
  deriving DecidableEq, Repr

/-- Base displacement of a full extension word; BD Size 01, 10, 11 (R118). -/
inductive BaseDisp where
  | null
  | word (d : Word)
  | long (d : Long)
  deriving DecidableEq, Repr

/-- The extension of an indexed mode (R118). -/
inductive IdxExt where
  | brief (x : Index) (d : Byte)
  | full (x : Index) (baseSuppress indexSuppress : Bool) (bd : BaseDisp)
  /-- BD Size 00, or IS = 1 with a nonzero I/IS: an IllegalInstruction when it is used (R123 a, b) -/
  | illegal (w : Word)
  /-- the full words doc00 leaves without meaning, refused when used (R123 c, d, e; Q10) -/
  | unstated (w : Word)
  deriving DecidableEq, Repr

/-- The addressing modes and immediate (R110). -/
inductive EA where
  | dn (n : BitVec 3)
  | an (n : BitVec 3)
  | ind (n : BitVec 3)
  | postinc (n : BitVec 3)
  | predec (n : BitVec 3)
  | disp (n : BitVec 3) (d : Word)
  | idx (n : BitVec 3) (x : IdxExt)
  | absW (w : Word)
  | absL (a : Long)
  | pcDisp (d : Word)
  | pcIdx (x : IdxExt)
  /-- the operand itself, zero-extended from the operand size (R125) -/
  | imm (v : Long)
  deriving DecidableEq, Repr

/-- The three lengths of a branch displacement (R351). -/
inductive Disp where
  | byte (d : Byte)
  | word (d : Word)
  | long (d : Long)
  deriving DecidableEq, Repr


/-- One constructor per row of spec/opcode_table.json. Register numbers and small fields are bit vectors of the
width the encoding gives them; `xr` is the 4-bit D/A : Register field (bit 3 set: address register); `rsv`,
`r15` are bits of a special word that must be zero (R151); `q` is an ADDQ/SUBQ field (0 means 8). -/
inductive Instr where
  /-- ORI.B #data,ea (R275) -/
  | oriB (imm : Byte) (dst : EA)
  /-- ORI.W #data,ea (R275) -/
  | oriW (imm : Word) (dst : EA)
  /-- ORI.L #data,ea (R275) -/
  | oriL (imm : Long) (dst : EA)
  /-- ANDI.B #data,ea (R273) -/
  | andiB (imm : Byte) (dst : EA)
  /-- ANDI.W #data,ea (R273) -/
  | andiW (imm : Word) (dst : EA)
  /-- ANDI.L #data,ea (R273) -/
  | andiL (imm : Long) (dst : EA)
  /-- SUBI.B #data,ea (R209) -/
  | subiB (imm : Byte) (dst : EA)
  /-- SUBI.W #data,ea (R209) -/
  | subiW (imm : Word) (dst : EA)
  /-- SUBI.L #data,ea (R209) -/
  | subiL (imm : Long) (dst : EA)
  /-- ADDI.B #data,ea (R204) -/
  | addiB (imm : Byte) (dst : EA)
  /-- ADDI.W #data,ea (R204) -/
  | addiW (imm : Word) (dst : EA)
  /-- ADDI.L #data,ea (R204) -/
  | addiL (imm : Long) (dst : EA)
  /-- EORI.B #data,ea (R277) -/
  | eoriB (imm : Byte) (dst : EA)
  /-- EORI.W #data,ea (R277) -/
  | eoriW (imm : Word) (dst : EA)
  /-- EORI.L #data,ea (R277) -/
  | eoriL (imm : Long) (dst : EA)
  /-- CMPI.B #data,ea (R218) -/
  | cmpiB (imm : Byte) (dst : EA)
  /-- CMPI.W #data,ea (R218) -/
  | cmpiW (imm : Word) (dst : EA)
  /-- CMPI.L #data,ea (R218) -/
  | cmpiL (imm : Long) (dst : EA)
  /-- ORI #data,CCR (R383) -/
  | oriToCcr (imm : Byte)
  /-- ORI #data,SR (R386) -/
  | oriToSr (imm : Word)
  /-- ANDI #data,CCR (R381) -/
  | andiToCcr (imm : Byte)
  /-- ANDI #data,SR (R384) -/
  | andiToSr (imm : Word)
  /-- EORI #data,CCR (R382) -/
  | eoriToCcr (imm : Byte)
  /-- EORI #data,SR (R385) -/
  | eoriToSr (imm : Word)
  /-- MOVES.B Rn,ea and MOVES.B ea,Rn (R391) -/
  | movesB (xr : BitVec 4) (toMem : Bool) (rsv : BitVec 11) (ea : EA)
  /-- CMP2.B ea,Rn (R221) -/
  | cmp2B (xr : BitVec 4) (rsv : BitVec 11) (ea : EA)
  /-- CHK2.B ea,Rn (R423) -/
  | chk2B (xr : BitVec 4) (rsv : BitVec 11) (ea : EA)
  /-- MOVES.W Rn,ea and MOVES.W ea,Rn (R391) -/
  | movesW (xr : BitVec 4) (toMem : Bool) (rsv : BitVec 11) (ea : EA)
  /-- CMP2.W ea,Rn (R221) -/
  | cmp2W (xr : BitVec 4) (rsv : BitVec 11) (ea : EA)
  /-- CHK2.W ea,Rn (R423) -/
  | chk2W (xr : BitVec 4) (rsv : BitVec 11) (ea : EA)
  /-- MOVES.L Rn,ea and MOVES.L ea,Rn (R391) -/
  | movesL (xr : BitVec 4) (toMem : Bool) (rsv : BitVec 11) (ea : EA)
  /-- CMP2.L ea,Rn (R221) -/
  | cmp2L (xr : BitVec 4) (rsv : BitVec 11) (ea : EA)
  /-- CHK2.L ea,Rn (R423) -/
  | chk2L (xr : BitVec 4) (rsv : BitVec 11) (ea : EA)
  /-- BTST #data,ea (R323) -/
  | btst (num : Byte) (ea : EA)
  /-- BTST Dn,ea (R323) -/
  | btstDn (r : BitVec 3) (ea : EA)
  /-- BCHG #data,ea (R324) -/
  | bchg (num : Byte) (ea : EA)
  /-- BCHG Dn,ea (R324) -/
  | bchgDn (r : BitVec 3) (ea : EA)
  /-- BCLR #data,ea (R325) -/
  | bclr (num : Byte) (ea : EA)
  /-- BCLR Dn,ea (R325) -/
  | bclrDn (r : BitVec 3) (ea : EA)
  /-- BSET #data,ea (R326) -/
  | bset (num : Byte) (ea : EA)
  /-- BSET Dn,ea (R326) -/
  | bsetDn (r : BitVec 3) (ea : EA)
  /-- MOVEP.W (d16,Ay),Dx (R171) -/
  | movepLoadW (x : BitVec 3) (y : BitVec 3) (d : Word)
  /-- MOVEP.L (d16,Ay),Dx (R171) -/
  | movepLoadL (x : BitVec 3) (y : BitVec 3) (d : Word)
  /-- MOVEP.W Dx,(d16,Ay) (R171) -/
  | movepStoreW (x : BitVec 3) (y : BitVec 3) (d : Word)
  /-- MOVEP.L Dx,(d16,Ay) (R171) -/
  | movepStoreL (x : BitVec 3) (y : BitVec 3) (d : Word)
  /-- MOVE.B ea,ea (R162) -/
  | moveB (src : EA) (dst : EA)
  /-- MOVE.W ea,ea (R162) -/
  | moveW (src : EA) (dst : EA)
  /-- MOVEA.W ea,An (R163) -/
  | moveaW (src : EA) (r : BitVec 3)
  /-- MOVE.L ea,ea (R162) -/
  | moveL (src : EA) (dst : EA)
  /-- MOVEA.L ea,An (R163) -/
  | moveaL (src : EA) (r : BitVec 3)
  /-- NEGX.B ea (R214) -/
  | negxB (dst : EA)
  /-- NEGX.W ea (R214) -/
  | negxW (dst : EA)
  /-- NEGX.L ea (R214) -/
  | negxL (dst : EA)
  /-- CLR.B ea (R212) -/
  | clrB (dst : EA)
  /-- CLR.W ea (R212) -/
  | clrW (dst : EA)
  /-- CLR.L ea (R212) -/
  | clrL (dst : EA)
  /-- NEG.B ea (R213) -/
  | negB (dst : EA)
  /-- NEG.W ea (R213) -/
  | negW (dst : EA)
  /-- NEG.L ea (R213) -/
  | negL (dst : EA)
  /-- NOT.B ea (R278) -/
  | notB (dst : EA)
  /-- NOT.W ea (R278) -/
  | notW (dst : EA)
  /-- NOT.L ea (R278) -/
  | notL (dst : EA)
  /-- MOVE SR,ea (R389) -/
  | moveFromSr (dst : EA)
  /-- MOVE CCR,ea (R387) -/
  | moveFromCcr (dst : EA)
  /-- MOVE ea,CCR (R388) -/
  | moveToCcr (src : EA)
  /-- the MOVE to SR slot (Q7) (R399) -/
  | refusedMoveToSr (m : BitVec 3) (q : BitVec 3)
  /-- NBCD ea (R343) -/
  | nbcd (dst : EA)
  /-- LINK.L An,#disp (R175) -/
  | linkL (r : BitVec 3) (d : Long)
  /-- SWAP Dn (R304) -/
  | swap (r : BitVec 3)
  /-- BKPT #data (R430) -/
  | bkpt (v : BitVec 3)
  /-- PEA ea (R174) -/
  | pea (ea : EA)
  /-- EXT.W Dn (R215) -/
  | extW (r : BitVec 3)
  /-- EXT.L Dn (R215) -/
  | extL (r : BitVec 3)
  /-- EXTB.L Dn (R215) -/
  | extbL (r : BitVec 3)
  /-- MOVEM.W list,ea (R166) -/
  | movemStoreW (mask : Word) (ea : EA)
  /-- MOVEM.W ea,list (R169) -/
  | movemLoadW (mask : Word) (ea : EA)
  /-- MOVEM.W (PC-relative),list (Q5) (R165) -/
  | refusedMovemPcW (e : BitVec 1)
  /-- MOVEM.L list,ea (R166) -/
  | movemStoreL (mask : Word) (ea : EA)
  /-- MOVEM.L ea,list (R169) -/
  | movemLoadL (mask : Word) (ea : EA)
  /-- MOVEM.L (PC-relative),list (Q5) (R165) -/
  | refusedMovemPcL (e : BitVec 1)
  /-- TST.B ea (R279) -/
  | tstB (src : EA)
  /-- TST.W ea (R279) -/
  | tstW (src : EA)
  /-- TST.L ea (R279) -/
  | tstL (src : EA)
  /-- TAS ea (R327) -/
  | tas (dst : EA)
  /-- BGND (R429) -/
  | bgnd
  /-- ILLEGAL (R421) -/
  | illegal
  /-- MULU.L ea,... (R255) -/
  | muluL (r15 : BitVec 1) (l : BitVec 3) (quad : Bool) (rsv : BitVec 7) (h : BitVec 3) (src : EA)
  /-- MULS.L ea,... (R254) -/
  | mulsL (r15 : BitVec 1) (l : BitVec 3) (quad : Bool) (rsv : BitVec 7) (h : BitVec 3) (src : EA)
  /-- DIVU.L and DIVUL.L ea,... (R261) -/
  | divuL (r15 : BitVec 1) (l : BitVec 3) (quad : Bool) (rsv : BitVec 7) (h : BitVec 3) (src : EA)
  /-- DIVS.L and DIVSL.L ea,... (R260) -/
  | divsL (r15 : BitVec 1) (l : BitVec 3) (quad : Bool) (rsv : BitVec 7) (h : BitVec 3) (src : EA)
  /-- TRAPX #n (R428) -/
  | trapx (v : BitVec 4)
  /-- TRAP #vector (R424) -/
  | trap (v : BitVec 4)
  /-- LINK.W An,#disp (R175) -/
  | linkW (r : BitVec 3) (d : Word)
  /-- UNLK An (R176) -/
  | unlk (r : BitVec 3)
  /-- MOVE An,USP (R393) -/
  | moveToUsp (r : BitVec 3)
  /-- MOVE USP,An (R393) -/
  | moveFromUsp (r : BitVec 3)
  /-- RESET (R398) -/
  | reset
  /-- NOP (R362) -/
  | nop
  /-- STOP #data (R395) -/
  | stop (imm : Word)
  /-- RTE (R394) -/
  | rte
  /-- RTD #disp (R360) -/
  | rtd (d : Word)
  /-- RTS (R359) -/
  | rts
  /-- TRAPV (R426) -/
  | trapv
  /-- RTR (R361) -/
  | rtr
  /-- SLEEP (R397) -/
  | sleep
  /-- MOVEC Rc,Rn (R390) -/
  | movecFromCr (xr : BitVec 4) (code : BitVec 12)
  /-- MOVEC Rn,Rc (R390) -/
  | movecToCr (xr : BitVec 4) (code : BitVec 12)
  /-- JSR ea (R358) -/
  | jsr (ea : EA)
  /-- JMP ea (R357) -/
  | jmp (ea : EA)
  /-- CHK.W ea,Dn (R422) -/
  | chkW (r : BitVec 3) (src : EA)
  /-- CHK.L ea,Dn (R422) -/
  | chkL (r : BitVec 3) (src : EA)
  /-- CHK.W #imm,Dn (Q3) (R422) -/
  | refusedChkImmW (r : BitVec 3)
  /-- CHK.L #imm,Dn (Q3) (R422) -/
  | refusedChkImmL (r : BitVec 3)
  /-- LEA ea,An (R173) -/
  | lea (r : BitVec 3) (ea : EA)
  /-- ADDQ.B #data,ea (R205) -/
  | addqB (q : BitVec 3) (dst : EA)
  /-- SUBQ.B #data,ea (R210) -/
  | subqB (q : BitVec 3) (dst : EA)
  /-- ADDQ.W #data,ea (R205) -/
  | addqW (q : BitVec 3) (dst : EA)
  /-- SUBQ.W #data,ea (R210) -/
  | subqW (q : BitVec 3) (dst : EA)
  /-- ADDQ.L #data,ea (R205) -/
  | addqL (q : BitVec 3) (dst : EA)
  /-- SUBQ.L #data,ea (R210) -/
  | subqL (q : BitVec 3) (dst : EA)
  /-- Scc ea (R356) -/
  | scc (cc : BitVec 4) (dst : EA)
  /-- DBcc Dn,label (R355) -/
  | dbcc (cc : BitVec 4) (r : BitVec 3) (d : Word)
  /-- TRAPcc.W #data (R425) -/
  | trapccW (cc : BitVec 4) (op : Word)
  /-- TRAPcc.L #data (R425) -/
  | trapccL (cc : BitVec 4) (op : Long)
  /-- TRAPcc (R425) -/
  | trapcc (cc : BitVec 4)
  /-- BRA label (R353) -/
  | bra (d : Disp)
  /-- BSR label (R354) -/
  | bsr (d : Disp)
  /-- BHI label (R352) -/
  | bhi (d : Disp)
  /-- BLS label (R352) -/
  | bls (d : Disp)
  /-- BCC label (R352) -/
  | bcc (d : Disp)
  /-- BCS label (R352) -/
  | bcs (d : Disp)
  /-- BNE label (R352) -/
  | bne (d : Disp)
  /-- BEQ label (R352) -/
  | beq (d : Disp)
  /-- BVC label (R352) -/
  | bvc (d : Disp)
  /-- BVS label (R352) -/
  | bvs (d : Disp)
  /-- BPL label (R352) -/
  | bpl (d : Disp)
  /-- BMI label (R352) -/
  | bmi (d : Disp)
  /-- BGE label (R352) -/
  | bge (d : Disp)
  /-- BLT label (R352) -/
  | blt (d : Disp)
  /-- BGT label (R352) -/
  | bgt (d : Disp)
  /-- BLE label (R352) -/
  | ble (d : Disp)
  /-- MOVEQ #data,Dn (R164) -/
  | moveq (r : BitVec 3) (d : Byte)
  /-- OR.B ea,Dn (R274) -/
  | orToDnB (r : BitVec 3) (src : EA)
  /-- OR.B Dn,ea (R274) -/
  | orToEaB (r : BitVec 3) (dst : EA)
  /-- OR.W ea,Dn (R274) -/
  | orToDnW (r : BitVec 3) (src : EA)
  /-- OR.W Dn,ea (R274) -/
  | orToEaW (r : BitVec 3) (dst : EA)
  /-- OR.L ea,Dn (R274) -/
  | orToDnL (r : BitVec 3) (src : EA)
  /-- OR.L Dn,ea (R274) -/
  | orToEaL (r : BitVec 3) (dst : EA)
  /-- OR.B (PC-relative),Dn (Q1) (R274) -/
  | refusedOrPcB (r : BitVec 3) (e : BitVec 1)
  /-- OR.B #imm,Dn (Q2) (R274) -/
  | refusedOrImmB (r : BitVec 3)
  /-- OR.W (PC-relative),Dn (Q1) (R274) -/
  | refusedOrPcW (r : BitVec 3) (e : BitVec 1)
  /-- OR.W #imm,Dn (Q2) (R274) -/
  | refusedOrImmW (r : BitVec 3)
  /-- OR.L (PC-relative),Dn (Q1) (R274) -/
  | refusedOrPcL (r : BitVec 3) (e : BitVec 1)
  /-- OR.L #imm,Dn (Q2) (R274) -/
  | refusedOrImmL (r : BitVec 3)
  /-- OR.W Dn,Dm in the Dn,ea direction (Q6) (R274) -/
  | refusedOrRegW (r : BitVec 3) (y : BitVec 3)
  /-- OR.L Dn,Dm in the Dn,ea direction (Q6) (R274) -/
  | refusedOrRegL (r : BitVec 3) (y : BitVec 3)
  /-- DIVU.W ea,Dn (R258) -/
  | divuW (r : BitVec 3) (src : EA)
  /-- DIVS.W ea,Dn (R257) -/
  | divsW (r : BitVec 3) (src : EA)
  /-- DIVS.W #imm,Dn (Q4) (R257) -/
  | refusedDivsImm (r : BitVec 3)
  /-- SBCD (R342) -/
  | sbcd (x : BitVec 3) (mem : Bool) (y : BitVec 3)
  /-- SUB.B ea,Dn (R207) -/
  | subToDnB (r : BitVec 3) (src : EA)
  /-- SUB.B Dn,ea (R207) -/
  | subToEaB (r : BitVec 3) (dst : EA)
  /-- SUB.W ea,Dn (R207) -/
  | subToDnW (r : BitVec 3) (src : EA)
  /-- SUB.W Dn,ea (R207) -/
  | subToEaW (r : BitVec 3) (dst : EA)
  /-- SUB.L ea,Dn (R207) -/
  | subToDnL (r : BitVec 3) (src : EA)
  /-- SUB.L Dn,ea (R207) -/
  | subToEaL (r : BitVec 3) (dst : EA)
  /-- SUBA.W ea,An (R208) -/
  | subaW (r : BitVec 3) (src : EA)
  /-- SUBA.L ea,An (R208) -/
  | subaL (r : BitVec 3) (src : EA)
  /-- SUBX.B (R211) -/
  | subxB (x : BitVec 3) (mem : Bool) (y : BitVec 3)
  /-- SUBX.W (R211) -/
  | subxW (x : BitVec 3) (mem : Bool) (y : BitVec 3)
  /-- SUBX.L (R211) -/
  | subxL (x : BitVec 3) (mem : Bool) (y : BitVec 3)
  /-- CMP.B ea,Dn (R216) -/
  | cmpB (r : BitVec 3) (src : EA)
  /-- CMP.W ea,Dn (R216) -/
  | cmpW (r : BitVec 3) (src : EA)
  /-- CMP.L ea,Dn (R216) -/
  | cmpL (r : BitVec 3) (src : EA)
  /-- CMPA.W ea,An (R217) -/
  | cmpaW (r : BitVec 3) (src : EA)
  /-- CMPA.L ea,An (R217) -/
  | cmpaL (r : BitVec 3) (src : EA)
  /-- EOR.B Dn,ea (R276) -/
  | eorB (r : BitVec 3) (dst : EA)
  /-- CMPM.B (Ay)+,(Ax)+ (R219) -/
  | cmpmB (x : BitVec 3) (y : BitVec 3)
  /-- EOR.W Dn,ea (R276) -/
  | eorW (r : BitVec 3) (dst : EA)
  /-- CMPM.W (Ay)+,(Ax)+ (R219) -/
  | cmpmW (x : BitVec 3) (y : BitVec 3)
  /-- EOR.L Dn,ea (R276) -/
  | eorL (r : BitVec 3) (dst : EA)
  /-- CMPM.L (Ay)+,(Ax)+ (R219) -/
  | cmpmL (x : BitVec 3) (y : BitVec 3)
  /-- AND.B ea,Dn (R272) -/
  | andToDnB (r : BitVec 3) (src : EA)
  /-- AND.B Dn,ea (R272) -/
  | andToEaB (r : BitVec 3) (dst : EA)
  /-- AND.W ea,Dn (R272) -/
  | andToDnW (r : BitVec 3) (src : EA)
  /-- AND.W Dn,ea (R272) -/
  | andToEaW (r : BitVec 3) (dst : EA)
  /-- AND.L ea,Dn (R272) -/
  | andToDnL (r : BitVec 3) (src : EA)
  /-- AND.L Dn,ea (R272) -/
  | andToEaL (r : BitVec 3) (dst : EA)
  /-- MULU.W ea,Dn (R253) -/
  | muluW (r : BitVec 3) (src : EA)
  /-- MULS.W ea,Dn (R252) -/
  | mulsW (r : BitVec 3) (src : EA)
  /-- ABCD (R341) -/
  | abcd (x : BitVec 3) (mem : Bool) (y : BitVec 3)
  /-- EXG Dx,Dy (R172) -/
  | exgDD (x : BitVec 3) (y : BitVec 3)
  /-- EXG Ax,Ay (R172) -/
  | exgAA (x : BitVec 3) (y : BitVec 3)
  /-- EXG Dx,Ay (R172) -/
  | exgDA (x : BitVec 3) (y : BitVec 3)
  /-- ADD.B ea,Dn (R202) -/
  | addToDnB (r : BitVec 3) (src : EA)
  /-- ADD.B Dn,ea (R202) -/
  | addToEaB (r : BitVec 3) (dst : EA)
  /-- ADD.W ea,Dn (R202) -/
  | addToDnW (r : BitVec 3) (src : EA)
  /-- ADD.W Dn,ea (R202) -/
  | addToEaW (r : BitVec 3) (dst : EA)
  /-- ADD.L ea,Dn (R202) -/
  | addToDnL (r : BitVec 3) (src : EA)
  /-- ADD.L Dn,ea (R202) -/
  | addToEaL (r : BitVec 3) (dst : EA)
  /-- ADDA.W ea,An (R203) -/
  | addaW (r : BitVec 3) (src : EA)
  /-- ADDA.L ea,An (R203) -/
  | addaL (r : BitVec 3) (src : EA)
  /-- ADDX.B (R206) -/
  | addxB (x : BitVec 3) (mem : Bool) (y : BitVec 3)
  /-- ADDX.W (R206) -/
  | addxW (x : BitVec 3) (mem : Bool) (y : BitVec 3)
  /-- ADDX.L (R206) -/
  | addxL (x : BitVec 3) (mem : Bool) (y : BitVec 3)
  /-- ASL.B (register) (R295) -/
  | aslB (k : BitVec 3) (i : Bool) (r : BitVec 3)
  /-- ASL.W (register) (R295) -/
  | aslW (k : BitVec 3) (i : Bool) (r : BitVec 3)
  /-- ASL.L (register) (R295) -/
  | aslL (k : BitVec 3) (i : Bool) (r : BitVec 3)
  /-- ASL.W ea (memory) (R295) -/
  | aslMem (dst : EA)
  /-- ASR.B (register) (R296) -/
  | asrB (k : BitVec 3) (i : Bool) (r : BitVec 3)
  /-- ASR.W (register) (R296) -/
  | asrW (k : BitVec 3) (i : Bool) (r : BitVec 3)
  /-- ASR.L (register) (R296) -/
  | asrL (k : BitVec 3) (i : Bool) (r : BitVec 3)
  /-- ASR.W ea (memory) (R296) -/
  | asrMem (dst : EA)
  /-- LSL.B (register) (R297) -/
  | lslB (k : BitVec 3) (i : Bool) (r : BitVec 3)
  /-- LSL.W (register) (R297) -/
  | lslW (k : BitVec 3) (i : Bool) (r : BitVec 3)
  /-- LSL.L (register) (R297) -/
  | lslL (k : BitVec 3) (i : Bool) (r : BitVec 3)
  /-- LSL.W ea (memory) (R297) -/
  | lslMem (dst : EA)
  /-- LSR.B (register) (R298) -/
  | lsrB (k : BitVec 3) (i : Bool) (r : BitVec 3)
  /-- LSR.W (register) (R298) -/
  | lsrW (k : BitVec 3) (i : Bool) (r : BitVec 3)
  /-- LSR.L (register) (R298) -/
  | lsrL (k : BitVec 3) (i : Bool) (r : BitVec 3)
  /-- LSR.W ea (memory) (R298) -/
  | lsrMem (dst : EA)
  /-- ROXL.B (register) (R301) -/
  | roxlB (k : BitVec 3) (i : Bool) (r : BitVec 3)
  /-- ROXL.W (register) (R301) -/
  | roxlW (k : BitVec 3) (i : Bool) (r : BitVec 3)
  /-- ROXL.L (register) (R301) -/
  | roxlL (k : BitVec 3) (i : Bool) (r : BitVec 3)
  /-- ROXL.W ea (memory) (R301) -/
  | roxlMem (dst : EA)
  /-- ROXR.B (register) (R302) -/
  | roxrB (k : BitVec 3) (i : Bool) (r : BitVec 3)
  /-- ROXR.W (register) (R302) -/
  | roxrW (k : BitVec 3) (i : Bool) (r : BitVec 3)
  /-- ROXR.L (register) (R302) -/
  | roxrL (k : BitVec 3) (i : Bool) (r : BitVec 3)
  /-- ROXR.W ea (memory) (R302) -/
  | roxrMem (dst : EA)
  /-- ROL.B (register) (R299) -/
  | rolB (k : BitVec 3) (i : Bool) (r : BitVec 3)
  /-- ROL.W (register) (R299) -/
  | rolW (k : BitVec 3) (i : Bool) (r : BitVec 3)
  /-- ROL.L (register) (R299) -/
  | rolL (k : BitVec 3) (i : Bool) (r : BitVec 3)
  /-- ROL.W ea (memory) (R299) -/
  | rolMem (dst : EA)
  /-- ROR.B (register) (R300) -/
  | rorB (k : BitVec 3) (i : Bool) (r : BitVec 3)
  /-- ROR.W (register) (R300) -/
  | rorW (k : BitVec 3) (i : Bool) (r : BitVec 3)
  /-- ROR.L (register) (R300) -/
  | rorL (k : BitVec 3) (i : Bool) (r : BitVec 3)
  /-- ROR.W ea (memory) (R300) -/
  | rorMem (dst : EA)
  /-- LPSTOP #data (R396) -/
  | lpstop (imm : Word)
  deriving DecidableEq, Repr

end Sys2Proof
end

