-- ==== Sys2Proof/WellFormed.lean ====
section
/-! DEFINITION. Sys2Proof/WellFormed.lean: which terms of the syntax are instructions (spec/30_encoding.md R123, R127,
R130). -/

namespace Sys2Proof

/-- The addressing-mode sets of R130 and of the two MOVEM rules R165. -/
inductive EaSet where
  | all | data | dataNoImm | dalt | alt | malt | ctrl | calt
  /-- MOVEM registers to memory: CALT and -(An) -/
  | listStore
  /-- MOVEM memory to registers: CALT and (An)+ -/
  | listLoad
  deriving DecidableEq, Repr

/-- Bit 8, BD Size, IS, I/IS, bit 3 and BS of a full extension word (R118). -/
def fullBit (w : Word) : Bool := w.getLsbD 8
/-- BD Size. -/
def bdSize (w : Word) : BitVec 2 := w.extractLsb' 4 2
/-- I/IS. -/
def iisField (w : Word) : BitVec 3 := w.extractLsb' 0 3

/-- R123 (a) and (b): the full words that trap. -/
def fullTraps (w : Word) : Bool :=
  bdSize w == 0#2 || (w.getLsbD 6 && iisField w != 0#3)

/-- R123 (c), (d) and (e): the full words without meaning. -/
def fullUnstated (w : Word) : Bool :=
  (!w.getLsbD 6 && iisField w != 0#3) || w.getLsbD 3 || (w.getLsbD 7 && w.getLsbD 6 && bdSize w == 1#2)

/-- An extension an encoding can hold. -/
def IdxExt.ok : IdxExt → Bool
  | .brief _ _ => true
  | .full _ bs is bd => !(bs && is && bd == .null)
  | .illegal w => fullBit w && fullTraps w
  | .unstated w => fullBit w && !fullTraps w && fullUnstated w

/-- An immediate of size `sz` fits its size (R125). -/
def immFits (sz : Size) (v : Long) : Bool :=
  match sz with
  | .b => v.toNat < 2 ^ 8
  | .w => v.toNat < 2 ^ 16
  | .l => true

/-- An effective address an encoding can hold, for an operand of size `sz`. -/
def EA.ok (sz : Size) : EA → Bool
  | .idx _ x => x.ok
  | .pcIdx x => x.ok
  | .imm v => immFits sz v
  | _ => true

/-- R130: whether a set has the mode. -/
def EaSet.admits (set : EaSet) : EA → Bool
  | .dn _ => (set matches .all | .data | .dataNoImm | .dalt | .alt)
  | .an _ => (set matches .all | .alt)
  | .ind _ => true
  | .postinc _ => (set matches .all | .data | .dataNoImm | .dalt | .alt | .malt | .listLoad)
  | .predec _ => (set matches .all | .data | .dataNoImm | .dalt | .alt | .malt | .listStore)
  | .disp _ _ => true
  | .idx _ _ => true
  | .absW _ => true
  | .absL _ => true
  | .pcDisp _ => (set matches .all | .data | .dataNoImm | .ctrl)
  | .pcIdx _ => (set matches .all | .data | .dataNoImm | .ctrl)
  | .imm _ => (set matches .all | .data)

/-- R351: a byte displacement of 0 or -1 has no encoding. -/
def Disp.ok : Disp → Bool
  | .byte d => d != 0#8 && d != 0xFF#8
  | _ => true


/-- An instruction is well formed when every operand is one its row of spec/opcode_table.json admits and every
immediate and extension word is one an encoding can hold (R127, R130, R153). -/
def Instr.ok : Instr → Bool
  | .oriB _ dst => EaSet.admits .dalt dst && dst.ok .b
  | .oriW _ dst => EaSet.admits .dalt dst && dst.ok .w
  | .oriL _ dst => EaSet.admits .dalt dst && dst.ok .l
  | .andiB _ dst => EaSet.admits .dalt dst && dst.ok .b
  | .andiW _ dst => EaSet.admits .dalt dst && dst.ok .w
  | .andiL _ dst => EaSet.admits .dalt dst && dst.ok .l
  | .subiB _ dst => EaSet.admits .dalt dst && dst.ok .b
  | .subiW _ dst => EaSet.admits .dalt dst && dst.ok .w
  | .subiL _ dst => EaSet.admits .dalt dst && dst.ok .l
  | .addiB _ dst => EaSet.admits .dalt dst && dst.ok .b
  | .addiW _ dst => EaSet.admits .dalt dst && dst.ok .w
  | .addiL _ dst => EaSet.admits .dalt dst && dst.ok .l
  | .eoriB _ dst => EaSet.admits .dalt dst && dst.ok .b
  | .eoriW _ dst => EaSet.admits .dalt dst && dst.ok .w
  | .eoriL _ dst => EaSet.admits .dalt dst && dst.ok .l
  | .cmpiB _ dst => EaSet.admits .dataNoImm dst && dst.ok .b
  | .cmpiW _ dst => EaSet.admits .dataNoImm dst && dst.ok .w
  | .cmpiL _ dst => EaSet.admits .dataNoImm dst && dst.ok .l
  | .oriToCcr _ => true
  | .oriToSr _ => true
  | .andiToCcr _ => true
  | .andiToSr _ => true
  | .eoriToCcr _ => true
  | .eoriToSr _ => true
  | .movesB _ _ _ ea => EaSet.admits .malt ea && ea.ok .b
  | .cmp2B _ _ ea => EaSet.admits .ctrl ea && ea.ok .b
  | .chk2B _ _ ea => EaSet.admits .ctrl ea && ea.ok .b
  | .movesW _ _ _ ea => EaSet.admits .malt ea && ea.ok .w
  | .cmp2W _ _ ea => EaSet.admits .ctrl ea && ea.ok .w
  | .chk2W _ _ ea => EaSet.admits .ctrl ea && ea.ok .w
  | .movesL _ _ _ ea => EaSet.admits .malt ea && ea.ok .l
  | .cmp2L _ _ ea => EaSet.admits .ctrl ea && ea.ok .l
  | .chk2L _ _ ea => EaSet.admits .ctrl ea && ea.ok .l
  | .btst _ ea => EaSet.admits .dataNoImm ea && ea.ok .b
  | .btstDn _ ea => EaSet.admits .data ea && ea.ok .b
  | .bchg _ ea => EaSet.admits .dalt ea && ea.ok .b
  | .bchgDn _ ea => EaSet.admits .dalt ea && ea.ok .b
  | .bclr _ ea => EaSet.admits .dalt ea && ea.ok .b
  | .bclrDn _ ea => EaSet.admits .dalt ea && ea.ok .b
  | .bset _ ea => EaSet.admits .dalt ea && ea.ok .b
  | .bsetDn _ ea => EaSet.admits .dalt ea && ea.ok .b
  | .movepLoadW _ _ _ => true
  | .movepLoadL _ _ _ => true
  | .movepStoreW _ _ _ => true
  | .movepStoreL _ _ _ => true
  | .moveB src dst => EaSet.admits .data src && src.ok .b && EaSet.admits .dalt dst && dst.ok .b
  | .moveW src dst => EaSet.admits .all src && src.ok .w && EaSet.admits .dalt dst && dst.ok .w
  | .moveaW src _ => EaSet.admits .all src && src.ok .w
  | .moveL src dst => EaSet.admits .all src && src.ok .l && EaSet.admits .dalt dst && dst.ok .l
  | .moveaL src _ => EaSet.admits .all src && src.ok .l
  | .negxB dst => EaSet.admits .dalt dst && dst.ok .b
  | .negxW dst => EaSet.admits .dalt dst && dst.ok .w
  | .negxL dst => EaSet.admits .dalt dst && dst.ok .l
  | .clrB dst => EaSet.admits .dalt dst && dst.ok .b
  | .clrW dst => EaSet.admits .dalt dst && dst.ok .w
  | .clrL dst => EaSet.admits .dalt dst && dst.ok .l
  | .negB dst => EaSet.admits .dalt dst && dst.ok .b
  | .negW dst => EaSet.admits .dalt dst && dst.ok .w
  | .negL dst => EaSet.admits .dalt dst && dst.ok .l
  | .notB dst => EaSet.admits .dalt dst && dst.ok .b
  | .notW dst => EaSet.admits .dalt dst && dst.ok .w
  | .notL dst => EaSet.admits .dalt dst && dst.ok .l
  | .moveFromSr dst => EaSet.admits .dalt dst && dst.ok .w
  | .moveFromCcr dst => EaSet.admits .dalt dst && dst.ok .w
  | .moveToCcr src => EaSet.admits .data src && src.ok .w
  | .refusedMoveToSr _ _ => true
  | .nbcd dst => EaSet.admits .dalt dst && dst.ok .b
  | .linkL _ _ => true
  | .swap _ => true
  | .bkpt _ => true
  | .pea ea => EaSet.admits .ctrl ea && ea.ok .l
  | .extW _ => true
  | .extL _ => true
  | .extbL _ => true
  | .movemStoreW _ ea => EaSet.admits .listStore ea && ea.ok .w
  | .movemLoadW _ ea => EaSet.admits .listLoad ea && ea.ok .w
  | .refusedMovemPcW _ => true
  | .movemStoreL _ ea => EaSet.admits .listStore ea && ea.ok .l
  | .movemLoadL _ ea => EaSet.admits .listLoad ea && ea.ok .l
  | .refusedMovemPcL _ => true
  | .tstB src => EaSet.admits .data src && src.ok .b
  | .tstW src => EaSet.admits .all src && src.ok .w
  | .tstL src => EaSet.admits .all src && src.ok .l
  | .tas dst => EaSet.admits .dalt dst && dst.ok .b
  | .bgnd => true
  | .illegal => true
  | .muluL _ _ _ _ _ src => EaSet.admits .data src && src.ok .l
  | .mulsL _ _ _ _ _ src => EaSet.admits .data src && src.ok .l
  | .divuL _ _ _ _ _ src => EaSet.admits .data src && src.ok .l
  | .divsL _ _ _ _ _ src => EaSet.admits .data src && src.ok .l
  | .trapx _ => true
  | .trap _ => true
  | .linkW _ _ => true
  | .unlk _ => true
  | .moveToUsp _ => true
  | .moveFromUsp _ => true
  | .reset => true
  | .nop => true
  | .stop _ => true
  | .rte => true
  | .rtd _ => true
  | .rts => true
  | .trapv => true
  | .rtr => true
  | .sleep => true
  | .movecFromCr _ _ => true
  | .movecToCr _ _ => true
  | .jsr ea => EaSet.admits .ctrl ea && ea.ok .l
  | .jmp ea => EaSet.admits .ctrl ea && ea.ok .l
  | .chkW _ src => EaSet.admits .dataNoImm src && src.ok .w
  | .chkL _ src => EaSet.admits .dataNoImm src && src.ok .l
  | .refusedChkImmW _ => true
  | .refusedChkImmL _ => true
  | .lea _ ea => EaSet.admits .ctrl ea && ea.ok .l
  | .addqB _ dst => EaSet.admits .dalt dst && dst.ok .b
  | .subqB _ dst => EaSet.admits .dalt dst && dst.ok .b
  | .addqW _ dst => EaSet.admits .alt dst && dst.ok .w
  | .subqW _ dst => EaSet.admits .alt dst && dst.ok .w
  | .addqL _ dst => EaSet.admits .alt dst && dst.ok .l
  | .subqL _ dst => EaSet.admits .alt dst && dst.ok .l
  | .scc _ dst => EaSet.admits .dalt dst && dst.ok .b
  | .dbcc _ _ _ => true
  | .trapccW _ _ => true
  | .trapccL _ _ => true
  | .trapcc _ => true
  | .bra d => d.ok
  | .bsr d => d.ok
  | .bhi d => d.ok
  | .bls d => d.ok
  | .bcc d => d.ok
  | .bcs d => d.ok
  | .bne d => d.ok
  | .beq d => d.ok
  | .bvc d => d.ok
  | .bvs d => d.ok
  | .bpl d => d.ok
  | .bmi d => d.ok
  | .bge d => d.ok
  | .blt d => d.ok
  | .bgt d => d.ok
  | .ble d => d.ok
  | .moveq _ _ => true
  | .orToDnB _ src => EaSet.admits .dalt src && src.ok .b
  | .orToEaB _ dst => EaSet.admits .malt dst && dst.ok .b
  | .orToDnW _ src => EaSet.admits .dalt src && src.ok .w
  | .orToEaW _ dst => EaSet.admits .malt dst && dst.ok .w
  | .orToDnL _ src => EaSet.admits .dalt src && src.ok .l
  | .orToEaL _ dst => EaSet.admits .malt dst && dst.ok .l
  | .refusedOrPcB _ _ => true
  | .refusedOrImmB _ => true
  | .refusedOrPcW _ _ => true
  | .refusedOrImmW _ => true
  | .refusedOrPcL _ _ => true
  | .refusedOrImmL _ => true
  | .refusedOrRegW _ _ => true
  | .refusedOrRegL _ _ => true
  | .divuW _ src => EaSet.admits .data src && src.ok .w
  | .divsW _ src => EaSet.admits .dataNoImm src && src.ok .w
  | .refusedDivsImm _ => true
  | .sbcd _ _ _ => true
  | .subToDnB _ src => EaSet.admits .data src && src.ok .b
  | .subToEaB _ dst => EaSet.admits .malt dst && dst.ok .b
  | .subToDnW _ src => EaSet.admits .all src && src.ok .w
  | .subToEaW _ dst => EaSet.admits .malt dst && dst.ok .w
  | .subToDnL _ src => EaSet.admits .all src && src.ok .l
  | .subToEaL _ dst => EaSet.admits .malt dst && dst.ok .l
  | .subaW _ src => EaSet.admits .all src && src.ok .w
  | .subaL _ src => EaSet.admits .all src && src.ok .l
  | .subxB _ _ _ => true
  | .subxW _ _ _ => true
  | .subxL _ _ _ => true
  | .cmpB _ src => EaSet.admits .data src && src.ok .b
  | .cmpW _ src => EaSet.admits .all src && src.ok .w
  | .cmpL _ src => EaSet.admits .all src && src.ok .l
  | .cmpaW _ src => EaSet.admits .all src && src.ok .w
  | .cmpaL _ src => EaSet.admits .all src && src.ok .l
  | .eorB _ dst => EaSet.admits .dalt dst && dst.ok .b
  | .cmpmB _ _ => true
  | .eorW _ dst => EaSet.admits .dalt dst && dst.ok .w
  | .cmpmW _ _ => true
  | .eorL _ dst => EaSet.admits .dalt dst && dst.ok .l
  | .cmpmL _ _ => true
  | .andToDnB _ src => EaSet.admits .data src && src.ok .b
  | .andToEaB _ dst => EaSet.admits .malt dst && dst.ok .b
  | .andToDnW _ src => EaSet.admits .data src && src.ok .w
  | .andToEaW _ dst => EaSet.admits .malt dst && dst.ok .w
  | .andToDnL _ src => EaSet.admits .data src && src.ok .l
  | .andToEaL _ dst => EaSet.admits .malt dst && dst.ok .l
  | .muluW _ src => EaSet.admits .data src && src.ok .w
  | .mulsW _ src => EaSet.admits .data src && src.ok .w
  | .abcd _ _ _ => true
  | .exgDD _ _ => true
  | .exgAA _ _ => true
  | .exgDA _ _ => true
  | .addToDnB _ src => EaSet.admits .data src && src.ok .b
  | .addToEaB _ dst => EaSet.admits .malt dst && dst.ok .b
  | .addToDnW _ src => EaSet.admits .all src && src.ok .w
  | .addToEaW _ dst => EaSet.admits .malt dst && dst.ok .w
  | .addToDnL _ src => EaSet.admits .all src && src.ok .l
  | .addToEaL _ dst => EaSet.admits .malt dst && dst.ok .l
  | .addaW _ src => EaSet.admits .all src && src.ok .w
  | .addaL _ src => EaSet.admits .all src && src.ok .l
  | .addxB _ _ _ => true
  | .addxW _ _ _ => true
  | .addxL _ _ _ => true
  | .aslB _ _ _ => true
  | .aslW _ _ _ => true
  | .aslL _ _ _ => true
  | .aslMem dst => EaSet.admits .malt dst && dst.ok .w
  | .asrB _ _ _ => true
  | .asrW _ _ _ => true
  | .asrL _ _ _ => true
  | .asrMem dst => EaSet.admits .malt dst && dst.ok .w
  | .lslB _ _ _ => true
  | .lslW _ _ _ => true
  | .lslL _ _ _ => true
  | .lslMem dst => EaSet.admits .malt dst && dst.ok .w
  | .lsrB _ _ _ => true
  | .lsrW _ _ _ => true
  | .lsrL _ _ _ => true
  | .lsrMem dst => EaSet.admits .malt dst && dst.ok .w
  | .roxlB _ _ _ => true
  | .roxlW _ _ _ => true
  | .roxlL _ _ _ => true
  | .roxlMem dst => EaSet.admits .malt dst && dst.ok .w
  | .roxrB _ _ _ => true
  | .roxrW _ _ _ => true
  | .roxrL _ _ _ => true
  | .roxrMem dst => EaSet.admits .malt dst && dst.ok .w
  | .rolB _ _ _ => true
  | .rolW _ _ _ => true
  | .rolL _ _ _ => true
  | .rolMem dst => EaSet.admits .malt dst && dst.ok .w
  | .rorB _ _ _ => true
  | .rorW _ _ _ => true
  | .rorL _ _ _ => true
  | .rorMem dst => EaSet.admits .malt dst && dst.ok .w
  | .lpstop _ => true

end Sys2Proof
end

