-- ==== Sys2Proof/Decode.lean ====
section
/-! DEFINITION. Sys2Proof/Decode.lean: from bytes to instructions, and back (spec/30_encoding.md).
`decode` is total: every first word gives an instruction or one of the three class-U outcomes of R150. The class-Q
operation words Q1–Q7 are constructors of `Instr`; the class-Q conditions on later words (Q8–Q10) stay in the
operands and are refused when the instruction runs. -/

namespace Sys2Proof

/-! ## Words and fields -/

/-- The operation word `llll rrr ooo mmm qqq` (R102, R142, R146). -/
def opWord (line : BitVec 4) (r o m q : BitVec 3) : Word := line ++ r ++ o ++ m ++ q

/-- Bits 15–12, the line (R140). -/
def lineOf (w : Word) : BitVec 4 := w.extractLsb' 12 4
/-- Bits 11–9. -/
def fieldR (w : Word) : BitVec 3 := w.extractLsb' 9 3
/-- Bits 8–6. -/
def fieldO (w : Word) : BitVec 3 := w.extractLsb' 6 3
/-- Bits 5–3, Mode (R102). -/
def fieldM (w : Word) : BitVec 3 := w.extractLsb' 3 3
/-- Bits 2–0, Register (R102). -/
def fieldQ (w : Word) : BitVec 3 := w.extractLsb' 0 3

/-- The two words of a long value, high-order word first (R62, R65). -/
def longWords (v : Long) : List Word := [v.extractLsb' 16 16, v.extractLsb' 0 16]

/-- Extension word `k`; words past the end of the list read 0. -/
def wordAt (ws : List Word) (k : Nat) : Word := ws.getD k 0#16

/-- `ext[k] : ext[k+1]` (R65). -/
def longAt (ws : List Word) (k : Nat) : Long := wordAt ws k ++ wordAt ws (k + 1)

/-! ## Operands to words -/

/-- The Mode field (R110). -/
def EA.mode : EA → BitVec 3
  | .dn _ => 0#3
  | .an _ => 1#3
  | .ind _ => 2#3
  | .postinc _ => 3#3
  | .predec _ => 4#3
  | .disp _ _ => 5#3
  | .idx _ _ => 6#3
  | .absW _ | .absL _ | .pcDisp _ | .pcIdx _ | .imm _ => 7#3

/-- The Register field (R110). -/
def EA.reg : EA → BitVec 3
  | .dn n | .an n | .ind n | .postinc n | .predec n | .disp n _ | .idx n _ => n
  | .absW _ => 0#3
  | .absL _ => 1#3
  | .pcDisp _ => 2#3
  | .pcIdx _ => 3#3
  | .imm _ => 4#3

/-- The first extension word of a full-format mode (R118). -/
def fullWord (x : Index) (bs is : Bool) (size : BitVec 2) : Word :=
  x.reg ++ BitVec.ofBool x.long ++ x.scale ++ 1#1 ++ BitVec.ofBool bs ++ BitVec.ofBool is ++ size ++ 0#4

/-- The words of an indexed mode's extension (R118). -/
def IdxExt.words : IdxExt → List Word
  | .brief x d => [x.reg ++ BitVec.ofBool x.long ++ x.scale ++ 0#1 ++ d]
  | .full x bs is .null => [fullWord x bs is 1#2]
  | .full x bs is (.word d) => [fullWord x bs is 2#2, d]
  | .full x bs is (.long d) => fullWord x bs is 3#2 :: longWords d
  | .illegal w => [w]
  | .unstated w => [w]

/-- The words of an immediate (R125). -/
def immWords (sz : Size) (v : Long) : List Word :=
  match sz with
  | .b => [0#8 ++ v.setWidth 8]
  | .w => [v.setWidth 16]
  | .l => longWords v

/-- The extension words of an effective address (R111). -/
def EA.exts (sz : Size) : EA → List Word
  | .dn _ | .an _ | .ind _ | .postinc _ | .predec _ => []
  | .disp _ d | .pcDisp d => [d]
  | .idx _ x | .pcIdx x => x.words
  | .absW w => [w]
  | .absL a => longWords a
  | .imm v => immWords sz v

/-- `extwords(ea)` of R111. -/
def EA.extWords (sz : Size) (ea : EA) : Nat := (ea.exts sz).length

/-- The low byte of a branch's operation word (R351). -/
def Disp.low8 : Disp → Byte
  | .byte d => d
  | .word _ => 0#8
  | .long _ => 0xFF#8

/-- The displacement words of a branch (R351). -/
def Disp.exts : Disp → List Word
  | .byte _ => []
  | .word d => [d]
  | .long d => longWords d

/-! ## Words to operands -/

/-- The index fields of an extension word (R118). -/
def parseIndex (w : Word) : Index :=
  { reg := w.extractLsb' 12 4, long := w.getLsbD 11, scale := w.extractLsb' 9 2 }

/-- An indexed mode's extension and the words after it (R118, R123). -/
def parseIdxExt (ws : List Word) : IdxExt × List Word :=
  let w := wordAt ws 0
  if !fullBit w then (.brief (parseIndex w) (w.setWidth 8), ws.drop 1)
  else if fullTraps w then (.illegal w, ws.drop 1)
  else if fullUnstated w then (.unstated w, ws.drop 1)
  else
    let x := parseIndex w
    let bs := w.getLsbD 7
    let is := w.getLsbD 6
    match (bdSize w).toNat with
    | 1 => (.full x bs is .null, ws.drop 1)
    | 2 => (.full x bs is (.word (wordAt ws 1)), ws.drop 2)
    | _ => (.full x bs is (.long (longAt ws 1)), ws.drop 3)

/-- An immediate operand and the words after it (R125): a byte is the low byte of its word. -/
def parseImm (sz : Size) (ws : List Word) : EA × List Word :=
  match sz with
  | .b => (.imm (((wordAt ws 0).setWidth 8).setWidth 32), ws.drop 1)
  | .w => (.imm ((wordAt ws 0).setWidth 32), ws.drop 1)
  | .l => (.imm (longAt ws 0), ws.drop 2)

/-- The effective address with fields Mode `m` and Register `q`, and the words after it (R110); none for the three
pairs Table 2 does not assign. -/
def parseEA (m q : BitVec 3) (sz : Size) (ws : List Word) : Option (EA × List Word) :=
  match m.toNat with
  | 0 => some (.dn q, ws)
  | 1 => some (.an q, ws)
  | 2 => some (.ind q, ws)
  | 3 => some (.postinc q, ws)
  | 4 => some (.predec q, ws)
  | 5 => some (.disp q (wordAt ws 0), ws.drop 1)
  | 6 => some (.idx q (parseIdxExt ws).1, (parseIdxExt ws).2)
  | _ =>
    match q.toNat with
    | 0 => some (.absW (wordAt ws 0), ws.drop 1)
    | 1 => some (.absL (longAt ws 0), ws.drop 2)
    | 2 => some (.pcDisp (wordAt ws 0), ws.drop 1)
    | 3 => some (.pcIdx (parseIdxExt ws).1, (parseIdxExt ws).2)
    | 4 => some (parseImm sz ws)
    | _ => none

/-- A branch displacement (R351). -/
def parseDisp (d8 : Byte) (ws : List Word) : Disp :=
  if d8 = 0#8 then .word (wordAt ws 0)
  else if d8 = 0xFF#8 then .long (longAt ws 0)
  else .byte d8

/-! ## Decoding -/

/-- What a first word means (R150). -/
inductive Decoded where
  | instr (i : Instr)
  /-- class U outside lines 1010 and 1111 -/
  | illegal
  /-- class U of line 1010 -/
  | lineA
  /-- class U of line 1111 -/
  | lineF
  deriving DecidableEq, Repr

/-- An instruction of one effective address in `set`, or class U. -/
def withEa (set : EaSet) (sz : Size) (m q : BitVec 3) (ws : List Word) (mk : EA → Instr) : Decoded :=
  match parseEA m q sz ws with
  | some (ea, _) => if set.admits ea then .instr (mk ea) else .illegal
  | none => .illegal

/-- `withEa` for the three sizes of SZ_STD in `ss`; 11 is class U (R103). -/
def sizedEa (ss : BitVec 3) (setB setWL : EaSet) (m q : BitVec 3) (ws : List Word)
    (mkB mkW mkL : EA → Instr) : Decoded :=
  match ss.toNat with
  | 0 => withEa setB .b m q ws mkB
  | 1 => withEa setWL .w m q ws mkW
  | 2 => withEa setWL .l m q ws mkL
  | _ => .illegal

/-- `sizedEa` after an immediate of the same size (R101, R125). -/
def immEa (ss : BitVec 3) (set : EaSet) (m q : BitVec 3) (ws : List Word)
    (mkB : Byte → EA → Instr) (mkW : Word → EA → Instr) (mkL : Long → EA → Instr) : Decoded :=
  match ss.toNat with
  | 0 => withEa set .b m q (ws.drop 1) (mkB ((wordAt ws 0).setWidth 8))
  | 1 => withEa set .w m q (ws.drop 1) (mkW (wordAt ws 0))
  | 2 => withEa set .l m q (ws.drop 2) (mkL (longAt ws 0))
  | _ => .illegal

/-- CHK2 or CMP2, by bit 11 of the special word (R221, R423). -/
def boundsInstr (sz : Size) (m q : BitVec 3) (ws : List Word)
    (cmp chk : BitVec 4 → BitVec 11 → EA → Instr) : Decoded :=
  let w := wordAt ws 0
  withEa .ctrl sz m q (ws.drop 1)
    ((if w.getLsbD 11 then chk else cmp) (w.extractLsb' 12 4) (w.extractLsb' 0 11))

/-- MOVES and its register word (R391). -/
def movesInstr (sz : Size) (m q : BitVec 3) (ws : List Word)
    (mk : BitVec 4 → Bool → BitVec 11 → EA → Instr) : Decoded :=
  let w := wordAt ws 0
  withEa .malt sz m q (ws.drop 1) (mk (w.extractLsb' 12 4) (w.getLsbD 11) (w.extractLsb' 0 11))

/-- The immediate group of line 0 with its CCR and SR forms (R141). -/
def immOrStatus (o m q : BitVec 3) (ws : List Word) (mkB : Byte → EA → Instr) (mkW : Word → EA → Instr)
    (mkL : Long → EA → Instr) (ccr : Byte → Instr) (sr : Word → Instr) : Decoded :=
  if m = 7#3 ∧ q = 4#3 then
    match o.toNat with
    | 0 => .instr (ccr ((wordAt ws 0).setWidth 8))
    | 1 => .instr (sr (wordAt ws 0))
    | _ => .illegal
  else immEa o .dalt m q ws mkB mkW mkL

/-- Line 0000, bit 8 clear (R141). -/
def decodeLine0Low (r o m q : BitVec 3) (ws : List Word) : Decoded :=
  let num := (wordAt ws 0).setWidth 8
  match r.toNat with
  | 0 => if o = 3#3 then boundsInstr .b m q ws .cmp2B .chk2B
         else immOrStatus o m q ws .oriB .oriW .oriL .oriToCcr .oriToSr
  | 1 => if o = 3#3 then boundsInstr .w m q ws .cmp2W .chk2W
         else immOrStatus o m q ws .andiB .andiW .andiL .andiToCcr .andiToSr
  | 2 => if o = 3#3 then boundsInstr .l m q ws .cmp2L .chk2L
         else immEa o .dalt m q ws .subiB .subiW .subiL
  | 3 => immEa o .dalt m q ws .addiB .addiW .addiL
  | 4 =>
    match o.toNat with
    | 0 => withEa .dataNoImm .b m q (ws.drop 1) (.btst num)
    | 1 => withEa .dalt .b m q (ws.drop 1) (.bchg num)
    | 2 => withEa .dalt .b m q (ws.drop 1) (.bclr num)
    | _ => withEa .dalt .b m q (ws.drop 1) (.bset num)
  | 5 => immOrStatus o m q ws .eoriB .eoriW .eoriL .eoriToCcr .eoriToSr
  | 6 => immEa o .dataNoImm m q ws .cmpiB .cmpiW .cmpiL
  | _ =>
    match o.toNat with
    | 0 => movesInstr .b m q ws .movesB
    | 1 => movesInstr .w m q ws .movesW
    | 2 => movesInstr .l m q ws .movesL
    | _ => .illegal

/-- Line 0000, bit 8 set: MOVEP when Mode is 001, else the dynamic bit instructions (R141, R171, R321). -/
def decodeLine0High (r o m q : BitVec 3) (ws : List Word) : Decoded :=
  if m = 1#3 then
    match o.toNat with
    | 4 => .instr (.movepLoadW r q (wordAt ws 0))
    | 5 => .instr (.movepLoadL r q (wordAt ws 0))
    | 6 => .instr (.movepStoreW r q (wordAt ws 0))
    | _ => .instr (.movepStoreL r q (wordAt ws 0))
  else
    match o.toNat with
    | 4 => withEa .data .b m q ws (.btstDn r)
    | 5 => withEa .dalt .b m q ws (.bchgDn r)
    | 6 => withEa .dalt .b m q ws (.bclrDn r)
    | _ => withEa .dalt .b m q ws (.bsetDn r)

/-- Lines 0001, 0010, 0011 (R142): MOVEA when the destination Mode is 001. -/
def decodeMove (sz : Size) (srcSet : EaSet) (mk : EA → EA → Instr) (mkA : EA → BitVec 3 → Option Instr)
    (r o m q : BitVec 3) (ws : List Word) : Decoded :=
  match parseEA m q sz ws with
  | none => .illegal
  | some (src, rest) =>
    if !srcSet.admits src then .illegal
    else if o = 1#3 then
      match mkA src r with
      | some i => .instr i
      | none => .illegal
    else withEa .dalt sz o r rest (mk src)

/-- The special word of a long multiply or divide (R251). -/
def longArith (m q : BitVec 3) (ws : List Word)
    (mkU mkS : BitVec 1 → BitVec 3 → Bool → BitVec 7 → BitVec 3 → EA → Instr) : Decoded :=
  let w := wordAt ws 0
  withEa .data .l m q (ws.drop 1)
    ((if w.getLsbD 11 then mkS else mkU) (w.extractLsb' 15 1) (w.extractLsb' 12 3) (w.getLsbD 10)
      (w.extractLsb' 3 7) (w.extractLsb' 0 3))

/-- MOVEM memory to registers, with the refused PC-relative forms (R165, Q5). -/
def movemLoad (sz : Size) (m q : BitVec 3) (ws : List Word) (mk : Word → EA → Instr)
    (refused : BitVec 1 → Instr) : Decoded :=
  if m = 7#3 ∧ (q = 2#3 ∨ q = 3#3) then .instr (refused (q.extractLsb' 0 1))
  else withEa .listLoad sz m q (ws.drop 1) (mk (wordAt ws 0))

/-- CHK with its refused immediate form (R422, Q3). -/
def chkInstr (sz : Size) (m q : BitVec 3) (ws : List Word) (mk : EA → Instr) (refused : Instr) : Decoded :=
  if m = 7#3 ∧ q = 4#3 then .instr refused else withEa .dataNoImm sz m q ws mk

/-- Line 0100, opmode 0 to 3, Register field 100: NBCD, PEA, MOVEM and what shares their patterns (R143). -/
def decodeLine4Move (o m q : BitVec 3) (ws : List Word) : Decoded :=
  match o.toNat with
  | 0 => if m = 1#3 then .instr (.linkL q (longAt ws 0)) else withEa .dalt .b m q ws .nbcd
  | 1 => if m = 0#3 then .instr (.swap q)
         else if m = 1#3 then .instr (.bkpt q)
         else withEa .ctrl .l m q ws .pea
  | 2 => if m = 0#3 then .instr (.extW q)
         else withEa .listStore .w m q (ws.drop 1) (.movemStoreW (wordAt ws 0))
  | _ => if m = 0#3 then .instr (.extL q)
         else withEa .listStore .l m q (ws.drop 1) (.movemStoreL (wordAt ws 0))

/-- `0100 1110 01 mmm qqq` (R143). -/
def decodeLine4Control (m q : BitVec 3) (ws : List Word) : Decoded :=
  let w := wordAt ws 0
  match m.toNat with
  | 0 => .instr (.trap (0#1 ++ q))
  | 1 => .instr (.trap (1#1 ++ q))
  | 2 => .instr (.linkW q w)
  | 3 => .instr (.unlk q)
  | 4 => .instr (.moveToUsp q)
  | 5 => .instr (.moveFromUsp q)
  | 6 =>
    match q.toNat with
    | 0 => .instr .reset
    | 1 => .instr .nop
    | 2 => .instr (.stop w)
    | 3 => .instr .rte
    | 4 => .instr (.rtd w)
    | 5 => .instr .rts
    | 6 => .instr .trapv
    | _ => .instr .rtr
  | _ =>
    match q.toNat with
    | 0 => .instr .sleep
    | 2 => .instr (.movecFromCr (w.extractLsb' 12 4) (w.extractLsb' 0 12))
    | 3 => .instr (.movecToCr (w.extractLsb' 12 4) (w.extractLsb' 0 12))
    | _ => .illegal

/-- Line 0100, opmode 0 to 3 (R143). -/
def decodeLine4Low (r o m q : BitVec 3) (ws : List Word) : Decoded :=
  match r.toNat with
  | 0 => if o = 3#3 then withEa .dalt .w m q ws .moveFromSr
         else sizedEa o .dalt .dalt m q ws .negxB .negxW .negxL
  | 1 => if o = 3#3 then withEa .dalt .w m q ws .moveFromCcr
         else sizedEa o .dalt .dalt m q ws .clrB .clrW .clrL
  | 2 => if o = 3#3 then withEa .data .w m q ws .moveToCcr
         else sizedEa o .dalt .dalt m q ws .negB .negW .negL
  | 3 => if o = 3#3 then .instr (.refusedMoveToSr m q)
         else sizedEa o .dalt .dalt m q ws .notB .notW .notL
  | 4 => decodeLine4Move o m q ws
  | 5 => if o = 3#3 then
           if m = 7#3 ∧ q = 2#3 then .instr .bgnd
           else if m = 7#3 ∧ q = 4#3 then .instr .illegal
           else withEa .dalt .b m q ws .tas
         else sizedEa o .data .all m q ws .tstB .tstW .tstL
  | 6 =>
    match o.toNat with
    | 0 => longArith m q ws .muluL .mulsL
    | 1 => longArith m q ws .divuL .divsL
    | 2 => movemLoad .w m q ws .movemLoadW .refusedMovemPcW
    | _ => movemLoad .l m q ws .movemLoadL .refusedMovemPcL
  | _ =>
    match o.toNat with
    | 0 => if m = 6#3 then .instr (.trapx (0#1 ++ q))
           else if m = 7#3 then .instr (.trapx (1#1 ++ q))
           else .illegal
    | 1 => decodeLine4Control m q ws
    | 2 => withEa .ctrl .l m q ws .jsr
    | _ => withEa .ctrl .l m q ws .jmp

/-- Line 0100 (R143). -/
def decodeLine4 (r o m q : BitVec 3) (ws : List Word) : Decoded :=
  match o.toNat with
  | 4 => chkInstr .l m q ws (.chkL r) (.refusedChkImmL r)
  | 5 => .illegal
  | 6 => chkInstr .w m q ws (.chkW r) (.refusedChkImmW r)
  | 7 => if m = 0#3 then
           if r = 4#3 then .instr (.extbL q) else .illegal
         else withEa .ctrl .l m q ws (.lea r)
  | _ => decodeLine4Low r o m q ws

/-- The condition field, bits 11–8 (R350). -/
def ccOf (r o : BitVec 3) : BitVec 4 := r ++ o.extractLsb' 2 1

/-- Line 0101 (R144). -/
def decodeLine5 (r o m q : BitVec 3) (ws : List Word) : Decoded :=
  let cc := ccOf r o
  match o.toNat with
  | 0 => withEa .dalt .b m q ws (.addqB r)
  | 1 => withEa .alt .w m q ws (.addqW r)
  | 2 => withEa .alt .l m q ws (.addqL r)
  | 4 => withEa .dalt .b m q ws (.subqB r)
  | 5 => withEa .alt .w m q ws (.subqW r)
  | 6 => withEa .alt .l m q ws (.subqL r)
  | _ =>
    if m = 1#3 then .instr (.dbcc cc q (wordAt ws 0))
    else if m = 7#3 ∧ q = 2#3 then .instr (.trapccW cc (wordAt ws 0))
    else if m = 7#3 ∧ q = 3#3 then .instr (.trapccL cc (longAt ws 0))
    else if m = 7#3 ∧ q = 4#3 then .instr (.trapcc cc)
    else withEa .dalt .b m q ws (.scc cc)

/-- Line 0110 (R145, R351). -/
def decodeLine6 (cc : BitVec 4) (d8 : Byte) (ws : List Word) : Decoded :=
  let d := parseDisp d8 ws
  match cc.toNat with
  | 0 => .instr (.bra d)
  | 1 => .instr (.bsr d)
  | 2 => .instr (.bhi d)
  | 3 => .instr (.bls d)
  | 4 => .instr (.bcc d)
  | 5 => .instr (.bcs d)
  | 6 => .instr (.bne d)
  | 7 => .instr (.beq d)
  | 8 => .instr (.bvc d)
  | 9 => .instr (.bvs d)
  | 10 => .instr (.bpl d)
  | 11 => .instr (.bmi d)
  | 12 => .instr (.bge d)
  | 13 => .instr (.blt d)
  | 14 => .instr (.bgt d)
  | _ => .instr (.ble d)

/-- R/M bit of ADDX, SUBX, ABCD, SBCD. -/
def memBit (m : BitVec 3) : Bool := m.getLsbD 0

/-- Line 1000: OR, DIVU.W, DIVS.W, SBCD and the refused OR and DIVS forms (R146; Q1, Q2, Q4, Q6). -/
def decodeLine8 (r o m q : BitVec 3) (ws : List Word) : Decoded :=
  let pc := decide (m = 7#3 ∧ (q = 2#3 ∨ q = 3#3))
  let imm := decide (m = 7#3 ∧ q = 4#3)
  let e := q.extractLsb' 0 1
  match o.toNat with
  | 0 => if pc then .instr (.refusedOrPcB r e) else if imm then .instr (.refusedOrImmB r)
         else withEa .dalt .b m q ws (.orToDnB r)
  | 1 => if pc then .instr (.refusedOrPcW r e) else if imm then .instr (.refusedOrImmW r)
         else withEa .dalt .w m q ws (.orToDnW r)
  | 2 => if pc then .instr (.refusedOrPcL r e) else if imm then .instr (.refusedOrImmL r)
         else withEa .dalt .l m q ws (.orToDnL r)
  | 3 => withEa .data .w m q ws (.divuW r)
  | 4 => if m = 0#3 ∨ m = 1#3 then .instr (.sbcd r (memBit m) q) else withEa .malt .b m q ws (.orToEaB r)
  | 5 => if m = 0#3 then .instr (.refusedOrRegW r q) else withEa .malt .w m q ws (.orToEaW r)
  | 6 => if m = 0#3 then .instr (.refusedOrRegL r q) else withEa .malt .l m q ws (.orToEaL r)
  | _ => if imm then .instr (.refusedDivsImm r) else withEa .dataNoImm .w m q ws (.divsW r)

/-- Line 1001: SUB, SUBA, SUBX (R146). -/
def decodeLine9 (r o m q : BitVec 3) (ws : List Word) : Decoded :=
  let x := decide (m = 0#3 ∨ m = 1#3)
  match o.toNat with
  | 0 => withEa .data .b m q ws (.subToDnB r)
  | 1 => withEa .all .w m q ws (.subToDnW r)
  | 2 => withEa .all .l m q ws (.subToDnL r)
  | 3 => withEa .all .w m q ws (fun ea => .subaW r ea)
  | 4 => if x then .instr (.subxB r (memBit m) q) else withEa .malt .b m q ws (.subToEaB r)
  | 5 => if x then .instr (.subxW r (memBit m) q) else withEa .malt .w m q ws (.subToEaW r)
  | 6 => if x then .instr (.subxL r (memBit m) q) else withEa .malt .l m q ws (.subToEaL r)
  | _ => withEa .all .l m q ws (fun ea => .subaL r ea)

/-- Line 1011: CMP, CMPA, EOR, CMPM (R146). -/
def decodeLineB (r o m q : BitVec 3) (ws : List Word) : Decoded :=
  match o.toNat with
  | 0 => withEa .data .b m q ws (.cmpB r)
  | 1 => withEa .all .w m q ws (.cmpW r)
  | 2 => withEa .all .l m q ws (.cmpL r)
  | 3 => withEa .all .w m q ws (.cmpaW r)
  | 4 => if m = 1#3 then .instr (.cmpmB r q) else withEa .dalt .b m q ws (.eorB r)
  | 5 => if m = 1#3 then .instr (.cmpmW r q) else withEa .dalt .w m q ws (.eorW r)
  | 6 => if m = 1#3 then .instr (.cmpmL r q) else withEa .dalt .l m q ws (.eorL r)
  | _ => withEa .all .l m q ws (.cmpaL r)

/-- Line 1100: AND, MULU.W, MULS.W, ABCD, EXG (R146, R172). -/
def decodeLineC (r o m q : BitVec 3) (ws : List Word) : Decoded :=
  match o.toNat with
  | 0 => withEa .data .b m q ws (.andToDnB r)
  | 1 => withEa .data .w m q ws (.andToDnW r)
  | 2 => withEa .data .l m q ws (.andToDnL r)
  | 3 => withEa .data .w m q ws (.muluW r)
  | 4 => if m = 0#3 ∨ m = 1#3 then .instr (.abcd r (memBit m) q) else withEa .malt .b m q ws (.andToEaB r)
  | 5 => if m = 0#3 then .instr (.exgDD r q) else if m = 1#3 then .instr (.exgAA r q)
         else withEa .malt .w m q ws (.andToEaW r)
  | 6 => if m = 1#3 then .instr (.exgDA r q) else withEa .malt .l m q ws (.andToEaL r)
  | _ => withEa .data .w m q ws (.mulsW r)

/-- Line 1101: ADD, ADDA, ADDX (R146). -/
def decodeLineD (r o m q : BitVec 3) (ws : List Word) : Decoded :=
  let x := decide (m = 0#3 ∨ m = 1#3)
  match o.toNat with
  | 0 => withEa .data .b m q ws (.addToDnB r)
  | 1 => withEa .all .w m q ws (.addToDnW r)
  | 2 => withEa .all .l m q ws (.addToDnL r)
  | 3 => withEa .all .w m q ws (.addaW r)
  | 4 => if x then .instr (.addxB r (memBit m) q) else withEa .malt .b m q ws (.addToEaB r)
  | 5 => if x then .instr (.addxW r (memBit m) q) else withEa .malt .w m q ws (.addToEaW r)
  | 6 => if x then .instr (.addxL r (memBit m) q) else withEa .malt .l m q ws (.addToEaL r)
  | _ => withEa .all .l m q ws (.addaL r)

/-- The register forms of line 1110 of one size, by direction and type (R291). -/
def shiftPick (left : Bool) (tt : BitVec 2) (asr asl lsr lsl roxr roxl ror rol : Instr) : Decoded :=
  match tt.toNat with
  | 0 => .instr (if left then asl else asr)
  | 1 => .instr (if left then lsl else lsr)
  | 2 => .instr (if left then roxl else roxr)
  | _ => .instr (if left then rol else ror)

/-- Line 1110 (R147, R291, R292). -/
def decodeLineE (r o m q : BitVec 3) (ws : List Word) : Decoded :=
  let i := m.getLsbD 2
  let tt := m.extractLsb' 0 2
  match o.toNat with
  | 3 =>
    match r.toNat with
    | 0 => withEa .malt .w m q ws .asrMem
    | 1 => withEa .malt .w m q ws .lsrMem
    | 2 => withEa .malt .w m q ws .roxrMem
    | 3 => withEa .malt .w m q ws .rorMem
    | _ => .illegal
  | 7 =>
    match r.toNat with
    | 0 => withEa .malt .w m q ws .aslMem
    | 1 => withEa .malt .w m q ws .lslMem
    | 2 => withEa .malt .w m q ws .roxlMem
    | 3 => withEa .malt .w m q ws .rolMem
    | _ => .illegal
  | 0 => shiftPick false tt (.asrB r i q) (.aslB r i q) (.lsrB r i q) (.lslB r i q)
           (.roxrB r i q) (.roxlB r i q) (.rorB r i q) (.rolB r i q)
  | 1 => shiftPick false tt (.asrW r i q) (.aslW r i q) (.lsrW r i q) (.lslW r i q)
           (.roxrW r i q) (.roxlW r i q) (.rorW r i q) (.rolW r i q)
  | 2 => shiftPick false tt (.asrL r i q) (.aslL r i q) (.lsrL r i q) (.lslL r i q)
           (.roxrL r i q) (.roxlL r i q) (.rorL r i q) (.rolL r i q)
  | 4 => shiftPick true tt (.asrB r i q) (.aslB r i q) (.lsrB r i q) (.lslB r i q)
           (.roxrB r i q) (.roxlB r i q) (.rorB r i q) (.rolB r i q)
  | 5 => shiftPick true tt (.asrW r i q) (.aslW r i q) (.lsrW r i q) (.lslW r i q)
           (.roxrW r i q) (.roxlW r i q) (.rorW r i q) (.rolW r i q)
  | _ => shiftPick true tt (.asrL r i q) (.aslL r i q) (.lsrL r i q) (.lslL r i q)
           (.roxrL r i q) (.roxlL r i q) (.rorL r i q) (.rolL r i q)

/-- The instruction whose operation word is `w` and whose later words are `ws` (R140–R150). -/
def decode (w : Word) (ws : List Word) : Decoded :=
  let r := fieldR w
  let o := fieldO w
  let m := fieldM w
  let q := fieldQ w
  match (lineOf w).toNat with
  | 0 => if o.getLsbD 2 then decodeLine0High r o m q ws else decodeLine0Low r o m q ws
  | 1 => decodeMove .b .data .moveB (fun _ _ => none) r o m q ws
  | 2 => decodeMove .l .all .moveL (fun src n => some (.moveaL src n)) r o m q ws
  | 3 => decodeMove .w .all .moveW (fun src n => some (.moveaW src n)) r o m q ws
  | 4 => decodeLine4 r o m q ws
  | 5 => decodeLine5 r o m q ws
  | 6 => decodeLine6 (w.extractLsb' 8 4) (w.setWidth 8) ws
  | 7 => if o.getLsbD 2 then .illegal else .instr (.moveq r (w.setWidth 8))
  | 8 => decodeLine8 r o m q ws
  | 9 => decodeLine9 r o m q ws
  | 10 => .lineA
  | 11 => decodeLineB r o m q ws
  | 12 => decodeLineC r o m q ws
  | 13 => decodeLineD r o m q ws
  | 14 => decodeLineE r o m q ws
  | _ => if w = 0xF800#16 ∧ wordAt ws 0 = 0x01C0#16 then .instr (.lpstop (wordAt ws 1)) else .lineF

/-- Big-endian words of a list of bytes (R62); an odd last byte is the high half of a word. -/
def wordsOfBytes : List Byte → List Word
  | [] => []
  | [hi] => [hi ++ 0#8]
  | hi :: lo :: rest => (hi ++ lo) :: wordsOfBytes rest

/-- The bytes of a list of words, most significant first (R62). -/
def bytesOfWords : List Word → List Byte
  | [] => []
  | w :: ws => w.extractLsb' 8 8 :: w.extractLsb' 0 8 :: bytesOfWords ws

/-- The instruction at the head of a list of bytes. -/
def decodeBytes (bs : List Byte) : Decoded :=
  let ws := wordsOfBytes bs
  decode (wordAt ws 0) (ws.drop 1)

/-- The longest instruction has seven words (R5). -/
def maxWords : Nat := 7

/-- The first `n` words of a number whose bit 0 is the least significant bit of the first word. -/
def wordsOfNat : Nat → Nat → List Word
  | 0, _ => []
  | n + 1, v => BitVec.ofNat 16 v :: wordsOfNat n (v / 2 ^ 16)

/-- The bytes of the instruction that spec/opcode_table.json numbers `w`, zero above bit `nbits`. -/
def tableBytes (nbits w : Nat) : List Byte := bytesOfWords (wordsOfNat maxWords (w % 2 ^ nbits))

/-- What the decoder reads from an opcode-table word: none where it finds no instruction. -/
def decodeTableWord (nbits w : Nat) : Option Instr :=
  match decodeBytes (tableBytes nbits w) with
  | .instr i => some i
  | _ => none

/-! ## Encoding -/

/-- The words of an instruction, first word first, written from the encoding tables of spec/30_encoding.md and the
`encoding` column of spec/opcode_table.json. -/
def encode : Instr → List Word
  | .oriB imm dst => opWord 0#4 0#3 0#3 dst.mode dst.reg :: ([0#8 ++ imm] ++ dst.exts .b)
  | .oriW imm dst => opWord 0#4 0#3 1#3 dst.mode dst.reg :: ([imm] ++ dst.exts .w)
  | .oriL imm dst => opWord 0#4 0#3 2#3 dst.mode dst.reg :: (longWords imm ++ dst.exts .l)
  | .andiB imm dst => opWord 0#4 1#3 0#3 dst.mode dst.reg :: ([0#8 ++ imm] ++ dst.exts .b)
  | .andiW imm dst => opWord 0#4 1#3 1#3 dst.mode dst.reg :: ([imm] ++ dst.exts .w)
  | .andiL imm dst => opWord 0#4 1#3 2#3 dst.mode dst.reg :: (longWords imm ++ dst.exts .l)
  | .subiB imm dst => opWord 0#4 2#3 0#3 dst.mode dst.reg :: ([0#8 ++ imm] ++ dst.exts .b)
  | .subiW imm dst => opWord 0#4 2#3 1#3 dst.mode dst.reg :: ([imm] ++ dst.exts .w)
  | .subiL imm dst => opWord 0#4 2#3 2#3 dst.mode dst.reg :: (longWords imm ++ dst.exts .l)
  | .addiB imm dst => opWord 0#4 3#3 0#3 dst.mode dst.reg :: ([0#8 ++ imm] ++ dst.exts .b)
  | .addiW imm dst => opWord 0#4 3#3 1#3 dst.mode dst.reg :: ([imm] ++ dst.exts .w)
  | .addiL imm dst => opWord 0#4 3#3 2#3 dst.mode dst.reg :: (longWords imm ++ dst.exts .l)
  | .eoriB imm dst => opWord 0#4 5#3 0#3 dst.mode dst.reg :: ([0#8 ++ imm] ++ dst.exts .b)
  | .eoriW imm dst => opWord 0#4 5#3 1#3 dst.mode dst.reg :: ([imm] ++ dst.exts .w)
  | .eoriL imm dst => opWord 0#4 5#3 2#3 dst.mode dst.reg :: (longWords imm ++ dst.exts .l)
  | .cmpiB imm dst => opWord 0#4 6#3 0#3 dst.mode dst.reg :: ([0#8 ++ imm] ++ dst.exts .b)
  | .cmpiW imm dst => opWord 0#4 6#3 1#3 dst.mode dst.reg :: ([imm] ++ dst.exts .w)
  | .cmpiL imm dst => opWord 0#4 6#3 2#3 dst.mode dst.reg :: (longWords imm ++ dst.exts .l)
  | .oriToCcr imm => [opWord 0#4 0#3 0#3 7#3 4#3, 0#8 ++ imm]
  | .oriToSr imm => [opWord 0#4 0#3 1#3 7#3 4#3, imm]
  | .andiToCcr imm => [opWord 0#4 1#3 0#3 7#3 4#3, 0#8 ++ imm]
  | .andiToSr imm => [opWord 0#4 1#3 1#3 7#3 4#3, imm]
  | .eoriToCcr imm => [opWord 0#4 5#3 0#3 7#3 4#3, 0#8 ++ imm]
  | .eoriToSr imm => [opWord 0#4 5#3 1#3 7#3 4#3, imm]
  | .movesB xr toMem rsv ea => opWord 0#4 7#3 0#3 ea.mode ea.reg :: (xr ++ BitVec.ofBool toMem ++ rsv) :: ea.exts .b
  | .cmp2B xr rsv ea => opWord 0#4 0#3 3#3 ea.mode ea.reg :: (xr ++ 0#1 ++ rsv) :: ea.exts .b
  | .chk2B xr rsv ea => opWord 0#4 0#3 3#3 ea.mode ea.reg :: (xr ++ 1#1 ++ rsv) :: ea.exts .b
  | .movesW xr toMem rsv ea => opWord 0#4 7#3 1#3 ea.mode ea.reg :: (xr ++ BitVec.ofBool toMem ++ rsv) :: ea.exts .w
  | .cmp2W xr rsv ea => opWord 0#4 1#3 3#3 ea.mode ea.reg :: (xr ++ 0#1 ++ rsv) :: ea.exts .w
  | .chk2W xr rsv ea => opWord 0#4 1#3 3#3 ea.mode ea.reg :: (xr ++ 1#1 ++ rsv) :: ea.exts .w
  | .movesL xr toMem rsv ea => opWord 0#4 7#3 2#3 ea.mode ea.reg :: (xr ++ BitVec.ofBool toMem ++ rsv) :: ea.exts .l
  | .cmp2L xr rsv ea => opWord 0#4 2#3 3#3 ea.mode ea.reg :: (xr ++ 0#1 ++ rsv) :: ea.exts .l
  | .chk2L xr rsv ea => opWord 0#4 2#3 3#3 ea.mode ea.reg :: (xr ++ 1#1 ++ rsv) :: ea.exts .l
  | .btst num ea => opWord 0#4 4#3 0#3 ea.mode ea.reg :: (0#8 ++ num) :: ea.exts .b
  | .btstDn r ea => opWord 0#4 r 4#3 ea.mode ea.reg :: ea.exts .b
  | .bchg num ea => opWord 0#4 4#3 1#3 ea.mode ea.reg :: (0#8 ++ num) :: ea.exts .b
  | .bchgDn r ea => opWord 0#4 r 5#3 ea.mode ea.reg :: ea.exts .b
  | .bclr num ea => opWord 0#4 4#3 2#3 ea.mode ea.reg :: (0#8 ++ num) :: ea.exts .b
  | .bclrDn r ea => opWord 0#4 r 6#3 ea.mode ea.reg :: ea.exts .b
  | .bset num ea => opWord 0#4 4#3 3#3 ea.mode ea.reg :: (0#8 ++ num) :: ea.exts .b
  | .bsetDn r ea => opWord 0#4 r 7#3 ea.mode ea.reg :: ea.exts .b
  | .movepLoadW x y d => [opWord 0#4 x 4#3 1#3 y, d]
  | .movepLoadL x y d => [opWord 0#4 x 5#3 1#3 y, d]
  | .movepStoreW x y d => [opWord 0#4 x 6#3 1#3 y, d]
  | .movepStoreL x y d => [opWord 0#4 x 7#3 1#3 y, d]
  | .moveB src dst => opWord 1#4 dst.reg dst.mode src.mode src.reg :: (src.exts .b ++ dst.exts .b)
  | .moveW src dst => opWord 3#4 dst.reg dst.mode src.mode src.reg :: (src.exts .w ++ dst.exts .w)
  | .moveaW src r => opWord 3#4 r 1#3 src.mode src.reg :: src.exts .w
  | .moveL src dst => opWord 2#4 dst.reg dst.mode src.mode src.reg :: (src.exts .l ++ dst.exts .l)
  | .moveaL src r => opWord 2#4 r 1#3 src.mode src.reg :: src.exts .l
  | .negxB dst => opWord 4#4 0#3 0#3 dst.mode dst.reg :: dst.exts .b
  | .negxW dst => opWord 4#4 0#3 1#3 dst.mode dst.reg :: dst.exts .w
  | .negxL dst => opWord 4#4 0#3 2#3 dst.mode dst.reg :: dst.exts .l
  | .clrB dst => opWord 4#4 1#3 0#3 dst.mode dst.reg :: dst.exts .b
  | .clrW dst => opWord 4#4 1#3 1#3 dst.mode dst.reg :: dst.exts .w
  | .clrL dst => opWord 4#4 1#3 2#3 dst.mode dst.reg :: dst.exts .l
  | .negB dst => opWord 4#4 2#3 0#3 dst.mode dst.reg :: dst.exts .b
  | .negW dst => opWord 4#4 2#3 1#3 dst.mode dst.reg :: dst.exts .w
  | .negL dst => opWord 4#4 2#3 2#3 dst.mode dst.reg :: dst.exts .l
  | .notB dst => opWord 4#4 3#3 0#3 dst.mode dst.reg :: dst.exts .b
  | .notW dst => opWord 4#4 3#3 1#3 dst.mode dst.reg :: dst.exts .w
  | .notL dst => opWord 4#4 3#3 2#3 dst.mode dst.reg :: dst.exts .l
  | .moveFromSr dst => opWord 4#4 0#3 3#3 dst.mode dst.reg :: dst.exts .w
  | .moveFromCcr dst => opWord 4#4 1#3 3#3 dst.mode dst.reg :: dst.exts .w
  | .moveToCcr src => opWord 4#4 2#3 3#3 src.mode src.reg :: src.exts .w
  | .refusedMoveToSr m q => [opWord 4#4 3#3 3#3 m q]
  | .nbcd dst => opWord 4#4 4#3 0#3 dst.mode dst.reg :: dst.exts .b
  | .linkL r d => opWord 4#4 4#3 0#3 1#3 r :: longWords d
  | .swap r => [opWord 4#4 4#3 1#3 0#3 r]
  | .bkpt v => [opWord 4#4 4#3 1#3 1#3 v]
  | .pea ea => opWord 4#4 4#3 1#3 ea.mode ea.reg :: ea.exts .l
  | .extW r => [opWord 4#4 4#3 2#3 0#3 r]
  | .extL r => [opWord 4#4 4#3 3#3 0#3 r]
  | .extbL r => [opWord 4#4 4#3 7#3 0#3 r]
  | .movemStoreW mask ea => opWord 4#4 4#3 2#3 ea.mode ea.reg :: mask :: ea.exts .w
  | .movemLoadW mask ea => opWord 4#4 6#3 2#3 ea.mode ea.reg :: mask :: ea.exts .w
  | .refusedMovemPcW e => [opWord 4#4 6#3 2#3 7#3 (1#2 ++ e)]
  | .movemStoreL mask ea => opWord 4#4 4#3 3#3 ea.mode ea.reg :: mask :: ea.exts .l
  | .movemLoadL mask ea => opWord 4#4 6#3 3#3 ea.mode ea.reg :: mask :: ea.exts .l
  | .refusedMovemPcL e => [opWord 4#4 6#3 3#3 7#3 (1#2 ++ e)]
  | .tstB src => opWord 4#4 5#3 0#3 src.mode src.reg :: src.exts .b
  | .tstW src => opWord 4#4 5#3 1#3 src.mode src.reg :: src.exts .w
  | .tstL src => opWord 4#4 5#3 2#3 src.mode src.reg :: src.exts .l
  | .tas dst => opWord 4#4 5#3 3#3 dst.mode dst.reg :: dst.exts .b
  | .bgnd => [opWord 4#4 5#3 3#3 7#3 2#3]
  | .illegal => [opWord 4#4 5#3 3#3 7#3 4#3]
  | .muluL r15 l quad rsv h src => opWord 4#4 6#3 0#3 src.mode src.reg :: (r15 ++ l ++ 0#1 ++ BitVec.ofBool quad ++ rsv ++ h) :: src.exts .l
  | .mulsL r15 l quad rsv h src => opWord 4#4 6#3 0#3 src.mode src.reg :: (r15 ++ l ++ 1#1 ++ BitVec.ofBool quad ++ rsv ++ h) :: src.exts .l
  | .divuL r15 l quad rsv h src => opWord 4#4 6#3 1#3 src.mode src.reg :: (r15 ++ l ++ 0#1 ++ BitVec.ofBool quad ++ rsv ++ h) :: src.exts .l
  | .divsL r15 l quad rsv h src => opWord 4#4 6#3 1#3 src.mode src.reg :: (r15 ++ l ++ 1#1 ++ BitVec.ofBool quad ++ rsv ++ h) :: src.exts .l
  | .trapx v => [opWord 4#4 7#3 0#3 (3#2 ++ v.extractLsb' 3 1) (v.extractLsb' 0 3)]
  | .trap v => [opWord 4#4 7#3 1#3 (0#2 ++ v.extractLsb' 3 1) (v.extractLsb' 0 3)]
  | .linkW r d => [opWord 4#4 7#3 1#3 2#3 r, d]
  | .unlk r => [opWord 4#4 7#3 1#3 3#3 r]
  | .moveToUsp r => [opWord 4#4 7#3 1#3 4#3 r]
  | .moveFromUsp r => [opWord 4#4 7#3 1#3 5#3 r]
  | .reset => [opWord 4#4 7#3 1#3 6#3 0#3]
  | .nop => [opWord 4#4 7#3 1#3 6#3 1#3]
  | .stop imm => [opWord 4#4 7#3 1#3 6#3 2#3, imm]
  | .rte => [opWord 4#4 7#3 1#3 6#3 3#3]
  | .rtd d => [opWord 4#4 7#3 1#3 6#3 4#3, d]
  | .rts => [opWord 4#4 7#3 1#3 6#3 5#3]
  | .trapv => [opWord 4#4 7#3 1#3 6#3 6#3]
  | .rtr => [opWord 4#4 7#3 1#3 6#3 7#3]
  | .sleep => [opWord 4#4 7#3 1#3 7#3 0#3]
  | .movecFromCr xr code => [opWord 4#4 7#3 1#3 7#3 2#3, xr ++ code]
  | .movecToCr xr code => [opWord 4#4 7#3 1#3 7#3 3#3, xr ++ code]
  | .jsr ea => opWord 4#4 7#3 2#3 ea.mode ea.reg :: ea.exts .l
  | .jmp ea => opWord 4#4 7#3 3#3 ea.mode ea.reg :: ea.exts .l
  | .chkW r src => opWord 4#4 r 6#3 src.mode src.reg :: src.exts .w
  | .chkL r src => opWord 4#4 r 4#3 src.mode src.reg :: src.exts .l
  | .refusedChkImmW r => [opWord 4#4 r 6#3 7#3 4#3]
  | .refusedChkImmL r => [opWord 4#4 r 4#3 7#3 4#3]
  | .lea r ea => opWord 4#4 r 7#3 ea.mode ea.reg :: ea.exts .l
  | .addqB q dst => opWord 5#4 q 0#3 dst.mode dst.reg :: dst.exts .b
  | .subqB q dst => opWord 5#4 q 4#3 dst.mode dst.reg :: dst.exts .b
  | .addqW q dst => opWord 5#4 q 1#3 dst.mode dst.reg :: dst.exts .w
  | .subqW q dst => opWord 5#4 q 5#3 dst.mode dst.reg :: dst.exts .w
  | .addqL q dst => opWord 5#4 q 2#3 dst.mode dst.reg :: dst.exts .l
  | .subqL q dst => opWord 5#4 q 6#3 dst.mode dst.reg :: dst.exts .l
  | .scc cc dst => opWord 5#4 (cc.extractLsb' 1 3) (cc.extractLsb' 0 1 ++ 3#2) dst.mode dst.reg :: dst.exts .b
  | .dbcc cc r d => [opWord 5#4 (cc.extractLsb' 1 3) (cc.extractLsb' 0 1 ++ 3#2) 1#3 r, d]
  | .trapccW cc op => [opWord 5#4 (cc.extractLsb' 1 3) (cc.extractLsb' 0 1 ++ 3#2) 7#3 2#3, op]
  | .trapccL cc op => opWord 5#4 (cc.extractLsb' 1 3) (cc.extractLsb' 0 1 ++ 3#2) 7#3 3#3 :: longWords op
  | .trapcc cc => [opWord 5#4 (cc.extractLsb' 1 3) (cc.extractLsb' 0 1 ++ 3#2) 7#3 4#3]
  | .bra d => (6#4 ++ 0#4 ++ d.low8 : BitVec 16) :: d.exts
  | .bsr d => (6#4 ++ 1#4 ++ d.low8 : BitVec 16) :: d.exts
  | .bhi d => (6#4 ++ 2#4 ++ d.low8 : BitVec 16) :: d.exts
  | .bls d => (6#4 ++ 3#4 ++ d.low8 : BitVec 16) :: d.exts
  | .bcc d => (6#4 ++ 4#4 ++ d.low8 : BitVec 16) :: d.exts
  | .bcs d => (6#4 ++ 5#4 ++ d.low8 : BitVec 16) :: d.exts
  | .bne d => (6#4 ++ 6#4 ++ d.low8 : BitVec 16) :: d.exts
  | .beq d => (6#4 ++ 7#4 ++ d.low8 : BitVec 16) :: d.exts
  | .bvc d => (6#4 ++ 8#4 ++ d.low8 : BitVec 16) :: d.exts
  | .bvs d => (6#4 ++ 9#4 ++ d.low8 : BitVec 16) :: d.exts
  | .bpl d => (6#4 ++ 10#4 ++ d.low8 : BitVec 16) :: d.exts
  | .bmi d => (6#4 ++ 11#4 ++ d.low8 : BitVec 16) :: d.exts
  | .bge d => (6#4 ++ 12#4 ++ d.low8 : BitVec 16) :: d.exts
  | .blt d => (6#4 ++ 13#4 ++ d.low8 : BitVec 16) :: d.exts
  | .bgt d => (6#4 ++ 14#4 ++ d.low8 : BitVec 16) :: d.exts
  | .ble d => (6#4 ++ 15#4 ++ d.low8 : BitVec 16) :: d.exts
  | .moveq r d => [(7#4 ++ r ++ 0#1 ++ d : BitVec 16)]
  | .orToDnB r src => opWord 8#4 r 0#3 src.mode src.reg :: src.exts .b
  | .orToEaB r dst => opWord 8#4 r 4#3 dst.mode dst.reg :: dst.exts .b
  | .orToDnW r src => opWord 8#4 r 1#3 src.mode src.reg :: src.exts .w
  | .orToEaW r dst => opWord 8#4 r 5#3 dst.mode dst.reg :: dst.exts .w
  | .orToDnL r src => opWord 8#4 r 2#3 src.mode src.reg :: src.exts .l
  | .orToEaL r dst => opWord 8#4 r 6#3 dst.mode dst.reg :: dst.exts .l
  | .refusedOrPcB r e => [opWord 8#4 r 0#3 7#3 (1#2 ++ e)]
  | .refusedOrImmB r => [opWord 8#4 r 0#3 7#3 4#3]
  | .refusedOrPcW r e => [opWord 8#4 r 1#3 7#3 (1#2 ++ e)]
  | .refusedOrImmW r => [opWord 8#4 r 1#3 7#3 4#3]
  | .refusedOrPcL r e => [opWord 8#4 r 2#3 7#3 (1#2 ++ e)]
  | .refusedOrImmL r => [opWord 8#4 r 2#3 7#3 4#3]
  | .refusedOrRegW r y => [opWord 8#4 r 5#3 0#3 y]
  | .refusedOrRegL r y => [opWord 8#4 r 6#3 0#3 y]
  | .divuW r src => opWord 8#4 r 3#3 src.mode src.reg :: src.exts .w
  | .divsW r src => opWord 8#4 r 7#3 src.mode src.reg :: src.exts .w
  | .refusedDivsImm r => [opWord 8#4 r 7#3 7#3 4#3]
  | .sbcd x mem y => [opWord 8#4 x 4#3 (0#2 ++ BitVec.ofBool mem) y]
  | .subToDnB r src => opWord 9#4 r 0#3 src.mode src.reg :: src.exts .b
  | .subToEaB r dst => opWord 9#4 r 4#3 dst.mode dst.reg :: dst.exts .b
  | .subToDnW r src => opWord 9#4 r 1#3 src.mode src.reg :: src.exts .w
  | .subToEaW r dst => opWord 9#4 r 5#3 dst.mode dst.reg :: dst.exts .w
  | .subToDnL r src => opWord 9#4 r 2#3 src.mode src.reg :: src.exts .l
  | .subToEaL r dst => opWord 9#4 r 6#3 dst.mode dst.reg :: dst.exts .l
  | .subaW r src => opWord 9#4 r 3#3 src.mode src.reg :: src.exts .w
  | .subaL r src => opWord 9#4 r 7#3 src.mode src.reg :: src.exts .l
  | .subxB x mem y => [opWord 9#4 x 4#3 (0#2 ++ BitVec.ofBool mem) y]
  | .subxW x mem y => [opWord 9#4 x 5#3 (0#2 ++ BitVec.ofBool mem) y]
  | .subxL x mem y => [opWord 9#4 x 6#3 (0#2 ++ BitVec.ofBool mem) y]
  | .cmpB r src => opWord 11#4 r 0#3 src.mode src.reg :: src.exts .b
  | .cmpW r src => opWord 11#4 r 1#3 src.mode src.reg :: src.exts .w
  | .cmpL r src => opWord 11#4 r 2#3 src.mode src.reg :: src.exts .l
  | .cmpaW r src => opWord 11#4 r 3#3 src.mode src.reg :: src.exts .w
  | .cmpaL r src => opWord 11#4 r 7#3 src.mode src.reg :: src.exts .l
  | .eorB r dst => opWord 11#4 r 4#3 dst.mode dst.reg :: dst.exts .b
  | .cmpmB x y => [opWord 11#4 x 4#3 1#3 y]
  | .eorW r dst => opWord 11#4 r 5#3 dst.mode dst.reg :: dst.exts .w
  | .cmpmW x y => [opWord 11#4 x 5#3 1#3 y]
  | .eorL r dst => opWord 11#4 r 6#3 dst.mode dst.reg :: dst.exts .l
  | .cmpmL x y => [opWord 11#4 x 6#3 1#3 y]
  | .andToDnB r src => opWord 12#4 r 0#3 src.mode src.reg :: src.exts .b
  | .andToEaB r dst => opWord 12#4 r 4#3 dst.mode dst.reg :: dst.exts .b
  | .andToDnW r src => opWord 12#4 r 1#3 src.mode src.reg :: src.exts .w
  | .andToEaW r dst => opWord 12#4 r 5#3 dst.mode dst.reg :: dst.exts .w
  | .andToDnL r src => opWord 12#4 r 2#3 src.mode src.reg :: src.exts .l
  | .andToEaL r dst => opWord 12#4 r 6#3 dst.mode dst.reg :: dst.exts .l
  | .muluW r src => opWord 12#4 r 3#3 src.mode src.reg :: src.exts .w
  | .mulsW r src => opWord 12#4 r 7#3 src.mode src.reg :: src.exts .w
  | .abcd x mem y => [opWord 12#4 x 4#3 (0#2 ++ BitVec.ofBool mem) y]
  | .exgDD x y => [opWord 12#4 x 5#3 0#3 y]
  | .exgAA x y => [opWord 12#4 x 5#3 1#3 y]
  | .exgDA x y => [opWord 12#4 x 6#3 1#3 y]
  | .addToDnB r src => opWord 13#4 r 0#3 src.mode src.reg :: src.exts .b
  | .addToEaB r dst => opWord 13#4 r 4#3 dst.mode dst.reg :: dst.exts .b
  | .addToDnW r src => opWord 13#4 r 1#3 src.mode src.reg :: src.exts .w
  | .addToEaW r dst => opWord 13#4 r 5#3 dst.mode dst.reg :: dst.exts .w
  | .addToDnL r src => opWord 13#4 r 2#3 src.mode src.reg :: src.exts .l
  | .addToEaL r dst => opWord 13#4 r 6#3 dst.mode dst.reg :: dst.exts .l
  | .addaW r src => opWord 13#4 r 3#3 src.mode src.reg :: src.exts .w
  | .addaL r src => opWord 13#4 r 7#3 src.mode src.reg :: src.exts .l
  | .addxB x mem y => [opWord 13#4 x 4#3 (0#2 ++ BitVec.ofBool mem) y]
  | .addxW x mem y => [opWord 13#4 x 5#3 (0#2 ++ BitVec.ofBool mem) y]
  | .addxL x mem y => [opWord 13#4 x 6#3 (0#2 ++ BitVec.ofBool mem) y]
  | .aslB k i r => [opWord 14#4 k 4#3 (BitVec.ofBool i ++ 0#2) r]
  | .aslW k i r => [opWord 14#4 k 5#3 (BitVec.ofBool i ++ 0#2) r]
  | .aslL k i r => [opWord 14#4 k 6#3 (BitVec.ofBool i ++ 0#2) r]
  | .aslMem dst => opWord 14#4 0#3 7#3 dst.mode dst.reg :: dst.exts .w
  | .asrB k i r => [opWord 14#4 k 0#3 (BitVec.ofBool i ++ 0#2) r]
  | .asrW k i r => [opWord 14#4 k 1#3 (BitVec.ofBool i ++ 0#2) r]
  | .asrL k i r => [opWord 14#4 k 2#3 (BitVec.ofBool i ++ 0#2) r]
  | .asrMem dst => opWord 14#4 0#3 3#3 dst.mode dst.reg :: dst.exts .w
  | .lslB k i r => [opWord 14#4 k 4#3 (BitVec.ofBool i ++ 1#2) r]
  | .lslW k i r => [opWord 14#4 k 5#3 (BitVec.ofBool i ++ 1#2) r]
  | .lslL k i r => [opWord 14#4 k 6#3 (BitVec.ofBool i ++ 1#2) r]
  | .lslMem dst => opWord 14#4 1#3 7#3 dst.mode dst.reg :: dst.exts .w
  | .lsrB k i r => [opWord 14#4 k 0#3 (BitVec.ofBool i ++ 1#2) r]
  | .lsrW k i r => [opWord 14#4 k 1#3 (BitVec.ofBool i ++ 1#2) r]
  | .lsrL k i r => [opWord 14#4 k 2#3 (BitVec.ofBool i ++ 1#2) r]
  | .lsrMem dst => opWord 14#4 1#3 3#3 dst.mode dst.reg :: dst.exts .w
  | .roxlB k i r => [opWord 14#4 k 4#3 (BitVec.ofBool i ++ 2#2) r]
  | .roxlW k i r => [opWord 14#4 k 5#3 (BitVec.ofBool i ++ 2#2) r]
  | .roxlL k i r => [opWord 14#4 k 6#3 (BitVec.ofBool i ++ 2#2) r]
  | .roxlMem dst => opWord 14#4 2#3 7#3 dst.mode dst.reg :: dst.exts .w
  | .roxrB k i r => [opWord 14#4 k 0#3 (BitVec.ofBool i ++ 2#2) r]
  | .roxrW k i r => [opWord 14#4 k 1#3 (BitVec.ofBool i ++ 2#2) r]
  | .roxrL k i r => [opWord 14#4 k 2#3 (BitVec.ofBool i ++ 2#2) r]
  | .roxrMem dst => opWord 14#4 2#3 3#3 dst.mode dst.reg :: dst.exts .w
  | .rolB k i r => [opWord 14#4 k 4#3 (BitVec.ofBool i ++ 3#2) r]
  | .rolW k i r => [opWord 14#4 k 5#3 (BitVec.ofBool i ++ 3#2) r]
  | .rolL k i r => [opWord 14#4 k 6#3 (BitVec.ofBool i ++ 3#2) r]
  | .rolMem dst => opWord 14#4 3#3 7#3 dst.mode dst.reg :: dst.exts .w
  | .rorB k i r => [opWord 14#4 k 0#3 (BitVec.ofBool i ++ 3#2) r]
  | .rorW k i r => [opWord 14#4 k 1#3 (BitVec.ofBool i ++ 3#2) r]
  | .rorL k i r => [opWord 14#4 k 2#3 (BitVec.ofBool i ++ 3#2) r]
  | .rorMem dst => opWord 14#4 3#3 3#3 dst.mode dst.reg :: dst.exts .w
  | .lpstop imm => [0xF800#16, 0x01C0#16, imm]

end Sys2Proof
end

