-- ==== Sys2Proof/Machine/State.lean ====
section
/-! DEFINITION. Sys2Proof/Machine/State.lean: everything the spec gives the machine (spec/10_state.md R20–R48,
60_exceptions.md R470, 70_reset_and_hazards.md R501–R504, R516, R517), as plain data. -/

namespace Sys2Proof.Machine

/-- The registers and run state of one context (R41, R48). -/
structure Ctx where
  /-- D0–D7 (R20) -/
  d : Vector Long 8
  /-- A0–A6 (R21); A7 is `usp` or `ssp` (R23) -/
  a : Vector Long 7
  usp : Long
  ssp : Long
  pc : Long
  /-- the status register (R25–R27): its fields, kept at the places of the default SR_LAYOUT; `srPack` is the word that
  software sees under the SR_LAYOUT in force (log 4) -/
  sr : Word
  vbr : Long
  sfc : Long
  dfc : Long
  /-- `ctxstate` (R42) -/
  run : CtxState
  /-- the JTAG halt flag (R45) -/
  jtagHalt : Bool
  deriving DecidableEq, Repr

/-- A context that nothing has set up: every register the model's reset value (log 7), never scheduled (R503). -/
def Ctx.absent : Ctx :=
  { d := Vector.replicate 8 0#32, a := Vector.replicate 7 0#32, usp := 0#32, ssp := 0#32, pc := 0#32,
    sr := 0#16, vbr := 0#32, sfc := 0#32, dfc := 0#32, run := .halted, jtagHalt := false }

/-- The stopped states of the whole CPU (R47 c). -/
inductive CpuState where
  | running
  /-- STOP from MC0 (R395) -/
  | stopped
  /-- LPSTOP from MC0; left only by reset (R396) -/
  | lpStopped
  deriving DecidableEq, Repr

/-- The two memory faults of R465. -/
inductive MemFault where
  | address | bus
  deriving DecidableEq, Repr

/-- The terminal marks of R516. -/
inductive Mark where
  | none
  /-- AddressError or BusError under FAULT_POLICY = terminal: kind, address accessed, pc of the instruction -/
  | faulted (kind : MemFault) (addr pc : Long)
  /-- a fault during exception entry (R463) -/
  | doubleFault
  deriving DecidableEq, Repr

/-- An interrupt request of the IRQ oracle (R470). -/
structure IrqReq where
  ctx : CtxId
  level : BitVec 3
  vector : Byte
  deriving DecidableEq, Repr

/-- What the host can do to the machine (R517); log 11. -/
inductive HostEvent where
  | reset
  /-- the oracle offers a request -/
  | irq (r : IrqReq)
  /-- the oracle withdraws a request not yet accepted -/
  | dropIrq (r : IrqReq)
  /-- MC0 marking a context READY by hand (R397) -/
  | markReady (i : CtxId)
  /-- the debugger resuming a context halted by BKPT (R430) -/
  | clearJtagHalt (i : CtxId)
  /-- a write by a device or another bus master (R78) -/
  | busWrite (addr : Long) (v : Byte)
  deriving DecidableEq, Repr

/-- What an extended MOVEC control code names (R44, R46); log 21. -/
inductive ExtReg where
  /-- the Faulted Context Register -/
  | fcr
  /-- a 32-bit register without further effect -/
  | plain (v : Long)
  deriving DecidableEq, Repr

/-- Memory: the bytes that differ from what an unlisted address reads as, by rising address. -/
abbrev Memory := List Host.Cell

/-- What an address that is not listed reads as: the spec gives memory no reset contents (R504); log 8. -/
def unlistedByte : Byte := 0#8

/-- The canonical form of memory. -/
abbrev Memory.wf (m : Memory) : Prop :=
  m.Pairwise (fun c c' => c.1 < c'.1) ∧ ∀ c ∈ m, c.1 < 2 ^ 32 ∧ c.2 ≠ unlistedByte

/-- The machine (R48). -/
structure State where
  ctxs : Vector Ctx 5
  /-- the executing context (R40) -/
  cur : CtxId
  cpu : CpuState
  /-- the Faulted Context Register (R44) -/
  fcr : CtxId
  mark : Mark
  mem : Memory
  /-- addresses stored to since the last pipeline flush, rising (R77); log 17 -/
  stale : List Nat
  /-- requests offered and not yet accepted (R470); log 23 -/
  irqs : List IrqReq
  /-- host events still to come, one batch per step (R517); log 11 -/
  events : List (List HostEvent)
  /-- MOVEC_EXT_CODES and the registers behind it (R46) -/
  extRegs : List (BitVec 12 × ExtReg)
  /-- the parameters of spec/92_eei_decisions.md §2; no instruction writes them (log 1) -/
  params : Params
  /-- RESET_STATE (context 0) and CTX_INIT (contexts 1 to 4): what a reset event loads; none is the default (R501, R503) -/
  resetCtx : Vector (Option Ctx) 5
  /-- the model's own counter of free values drawn (R15); log 2, log 9 -/
  draws : Nat
  deriving DecidableEq, Repr

/-- What stops a step with a fault. Both are terminal marks of R516 that only a reset event clears. -/
inductive Fault where
  /-- raised by `step` on a state marked `Mark.faulted` (R465). Safe: the machine executes nothing further there. -/
  | memory (kind : MemFault) (addr pc : Long)
  /-- raised by `step` on a state marked `Mark.doubleFault` (R463). Safe: the machine executes nothing further there. -/
  | doubleFault
  deriving DecidableEq, Repr

/-- Why the model gives no meaning. Every refusal is safe: nothing is claimed of a program that reaches it. -/
inductive Refusal where
  /-- an instruction without a meaning in this model, by its mnemonic; no meaning answers with it -/
  | notModelled (mnemonic : String)
  /-- the MOVE to SR slot (Q7, R399) -/
  | moveToSr
  /-- MOVEM from a PC-relative address (Q5, R165) -/
  | movemPcRelative
  /-- CHK with an immediate bound (Q3, R422) -/
  | chkImmediate
  /-- OR from a PC-relative source (Q1, R274) -/
  | orPcRelative
  /-- OR from an immediate source (Q2, R274) -/
  | orImmediate
  /-- OR Dn,Dm in the Dn,ea direction (Q6, R274) -/
  | orRegisterToRegister
  /-- DIVS.W from an immediate source (Q4, R257) -/
  | divsImmediate
  /-- 64-bit divide with Dr = Dq (Q8, R259) -/
  | divQuadSameRegister
  /-- a nonzero reserved bit of a special word (Q9, R151) -/
  | reservedBits
  /-- a full extension word without meaning (Q10, R123) -/
  | fullExtension
  /-- an access across the top of the address space (Q11, R61) -/
  | addressWrap
  /-- a fetch of bytes stored since the last flush, under PREFETCH_HAZARD = refuse (Q12, R77) -/
  | prefetchHazard
  /-- a register stored through its own update, under `Params.undefined` = refuse (U8, R72) -/
  | storesItself
  /-- a 64-bit product in one register, under `Params.undefined` = refuse (U9, R254, R255) -/
  | productRegister
  /-- CMP2 or CHK2 with bounds ordered in neither way (U13, R220, R516) -/
  | unorderedBounds
  /-- LINK A7 (U12, R175) -/
  | linkA7
  /-- UNLK A7 (U12, R176) -/
  | unlkA7
  /-- trace bits set under TRACE_POLICY = refuse, or T1:T0 = 11 under cpu32 (U15, R475) -/
  | traceBits
  /-- an access to a device region of MEM_MAP: no device behaviour is given (R74, R78); log 20 -/
  | deviceAccess
  /-- a term that is no instruction (`Instr.ok` fails); no decoded instruction meets it; log 35 -/
  | illFormed
  deriving DecidableEq, Repr

/-- The outcome of an instruction or of a step. -/
abbrev Step := Host.Outcome State Fault Refusal

/-- Context 0 right after reset (R501): SR 0x2700, VBR 0, SSP and pc the long words at 0 and 4, which are 0 in a
memory that lists nothing (log 8); the registers R501 calls unspecified at the value of log 7. -/
def Ctx.afterReset : Ctx :=
  { Ctx.absent with sr := 0x2700#16, run := .ready }

/-- The machine right after reset, with the default of every parameter (R501–R504). -/
def State.reset : State :=
  { ctxs := #v[Ctx.afterReset, Ctx.absent, Ctx.absent, Ctx.absent, Ctx.absent],
    cur := 0, cpu := .running, fcr := 0, mark := .none, mem := [], stale := [], irqs := [], events := [],
    extRegs := [], params := Params.default, resetCtx := Vector.replicate 5 none, draws := 0 }

end Sys2Proof.Machine
end

