-- ==== Sys2Proof/Machine/Flags.lean ====
section
/-! DEFINITION. Sys2Proof/Machine/Flags.lean: every computation on operand values, with its condition codes
(spec/00_scope.md R8, R14; the flag rules of files 41 to 47). An operand of size `sz` is the low `sz.bits` bits of a
`Long`, the rest zero. -/

namespace Sys2Proof.Machine

/-! ## Sizes (R8) -/

/-- `trunc_n`: the low bits of a value, the rest zero. -/
def trunc (sz : Size) (v : Long) : Long :=
  match sz with
  | .b => (v.setWidth 8).setWidth 32
  | .w => (v.setWidth 16).setWidth 32
  | .l => v

/-- `sext_n`: the value of an operand extended with its sign. -/
def sext (sz : Size) (v : Long) : Long :=
  match sz with
  | .b => (v.setWidth 8).signExtend 32
  | .w => (v.setWidth 16).signExtend 32
  | .l => v

/-- `msb(v, n)`. -/
def msb (sz : Size) (v : Long) : Bool := v.getLsbD (sz.bits - 1)

/-- `setD` of R9: the low bits of `old` replaced, the others kept. -/
def insertLow (sz : Size) (old v : Long) : Long :=
  match sz with
  | .b => old.extractLsb' 8 24 ++ v.setWidth 8
  | .w => old.extractLsb' 16 16 ++ v.setWidth 16
  | .l => v

/-- `signed_n`. -/
def signedOf (sz : Size) (v : Long) : Int := (sext sz v).toInt

/-- `unsigned_n`. -/
def unsignedOf (sz : Size) (v : Long) : Nat := (trunc sz v).toNat

/-! ## Condition codes (R26) -/

/-- The five condition codes. -/
structure Ccr where
  x : Bool
  n : Bool
  z : Bool
  v : Bool
  c : Bool
  deriving DecidableEq, Repr

/-- The condition codes in the low five bits of a word. -/
def Ccr.ofWord (w : Word) : Ccr :=
  { x := w.getLsbD 4, n := w.getLsbD 3, z := w.getLsbD 2, v := w.getLsbD 1, c := w.getLsbD 0 }

/-- The condition codes as bits 4 to 0. -/
def Ccr.bits (f : Ccr) : BitVec 5 :=
  BitVec.ofBool f.x ++ BitVec.ofBool f.n ++ BitVec.ofBool f.z ++ BitVec.ofBool f.v ++ BitVec.ofBool f.c

/-- A status word with its condition codes replaced and every other bit kept. -/
def putCcr (sr : Word) (f : Ccr) : Word := sr.extractLsb' 5 11 ++ f.bits

/-! ## The status register (R25–R29)

SR is kept with its fields at the places of the default SR_LAYOUT: T1 15, T0 14, S 13, mask 10–8, X N Z V C 4–0. -/

/-- The bits that hold a field (R28). -/
def srImplemented : Word := 0xE71F#16

/-- S, supervisor (R27). -/
def srS (sr : Word) : Bool := sr.getLsbD 13
/-- T1 (R27). -/
def srT1 (sr : Word) : Bool := sr.getLsbD 15
/-- T0 (R27). -/
def srT0 (sr : Word) : Bool := sr.getLsbD 14
/-- I2–I0, the interrupt mask (R27). -/
def srMask (sr : Word) : BitVec 3 := sr.extractLsb' 8 3

/-- One bit at place `p` of the high byte. -/
def highBit (b : Bool) (p : Fin 8) : Word := (BitVec.ofBool b).setWidth 16 <<< (8 + p.val)

/-- SR as software sees it under a layout: each field at its place, every other bit 0 (R27, R29). -/
def srPack (l : SrLayout) (sr : Word) : Word :=
  highBit (srT1 sr) l.t1 ||| highBit (srT0 sr) l.t0 ||| highBit (srS sr) l.s ||| highBit (sr.getLsbD 10) l.i2 |||
    highBit (sr.getLsbD 9) l.i1 ||| highBit (sr.getLsbD 8) l.i0 ||| (sr &&& 0x001F#16)

/-- The fields of a word that software writes to SR under a layout; its other bits are ignored (R28). -/
def srUnpack (l : SrLayout) (w : Word) : Word :=
  let field : Fin 8 → Bool := fun p => w.getLsbD (8 + p.val)
  highBit (field l.t1) 7 ||| highBit (field l.t0) 6 ||| highBit (field l.s) 5 ||| highBit (field l.i2) 2 |||
    highBit (field l.i1) 1 ||| highBit (field l.i0) 0 ||| (w &&& 0x001F#16)

/-- Either trace bit set (R475). -/
def srTraced (sr : Word) : Bool := srT1 sr || srT0 sr

/-- SR after exception entry begins: S set, trace bits clear, and the mask when an interrupt gives one (R460). -/
def srForEntry (sr : Word) (level : Option (BitVec 3)) : Word :=
  let base := (sr ||| 0x2000#16) &&& 0x3FFF#16
  match level with
  | none => base
  | some l => (base &&& 0xF8FF#16) ||| ((l.setWidth 16) <<< 8)

/-- `cond(cc)` (R350). -/
def cond (cc : BitVec 4) (f : Ccr) : Bool :=
  match cc.toNat with
  | 0 => true
  | 1 => false
  | 2 => !f.c && !f.z
  | 3 => f.c || f.z
  | 4 => !f.c
  | 5 => f.c
  | 6 => !f.z
  | 7 => f.z
  | 8 => !f.v
  | 9 => f.v
  | 10 => !f.n
  | 11 => f.n
  | 12 => f.n == f.v
  | 13 => f.n != f.v
  | 14 => !f.z && f.n == f.v
  | _ => f.z || f.n != f.v

/-! ## Addition and subtraction (R14) -/

/-- Result, carry or borrow, signed overflow. -/
structure Sum where
  res : Long
  c : Bool
  v : Bool
  deriving DecidableEq, Repr

/-- `add_n(s, d, x)`. -/
def addN (sz : Size) (s d : Long) (x : Bool) : Sum :=
  let sum := unsignedOf sz s + unsignedOf sz d + x.toNat
  let r := BitVec.ofNat 32 (sum % 2 ^ sz.bits)
  { res := r, c := decide (2 ^ sz.bits ≤ sum), v := msb sz s == msb sz d && msb sz r != msb sz d }

/-- `sub_n(s, d, x)`: d - s - x. -/
def subN (sz : Size) (s d : Long) (x : Bool) : Sum :=
  let diff : Int := (unsignedOf sz d : Int) - unsignedOf sz s - x.toNat
  let r := BitVec.ofInt 32 (diff % 2 ^ sz.bits)
  { res := r, c := decide (diff < 0), v := msb sz s != msb sz d && msb sz r != msb sz d }

/-- Flags of an addition or subtraction: X and C the carry, Z from the result (R202, R207). -/
def sumFlags (sz : Size) (t : Sum) : Ccr :=
  { x := t.c, n := msb sz t.res, z := decide (t.res = 0#32), v := t.v, c := t.c }

/-- The same with the Z that only clears (R206, R211, R214). -/
def stickyFlags (sz : Size) (t : Sum) (f : Ccr) : Ccr :=
  { sumFlags sz t with z := decide (t.res = 0#32) && f.z }

/-- The same with X kept, for compares (R216). -/
def compareFlags (sz : Size) (t : Sum) (f : Ccr) : Ccr := { sumFlags sz t with x := f.x }

/-- `logic_flags` of R271, also MOVE, TST, EXT, SWAP: X kept, V and C clear. -/
def logicFlags (sz : Size) (v : Long) (f : Ccr) : Ccr :=
  { x := f.x, n := msb sz v, z := decide (trunc sz v = 0#32), v := false, c := false }

/-! ## Two-operand operations: source, destination, old flags to result and new flags -/

/-- A computation on a source and a destination operand. -/
abbrev Alu := Long → Long → Ccr → Long × Ccr

/-- ADD, ADDI, ADDQ (R202). -/
def aluAdd (sz : Size) : Alu := fun s d _ =>
  ((addN sz s d false).res, sumFlags sz (addN sz s d false))

/-- SUB, SUBI, SUBQ (R207). -/
def aluSub (sz : Size) : Alu := fun s d _ =>
  ((subN sz s d false).res, sumFlags sz (subN sz s d false))

/-- ADDX (R206). -/
def aluAddx (sz : Size) : Alu := fun s d f =>
  ((addN sz s d f.x).res, stickyFlags sz (addN sz s d f.x) f)

/-- SUBX (R211). -/
def aluSubx (sz : Size) : Alu := fun s d f =>
  ((subN sz s d f.x).res, stickyFlags sz (subN sz s d f.x) f)

/-- AND (R272). -/
def aluAnd (sz : Size) : Alu := fun s d f => (trunc sz (s &&& d), logicFlags sz (s &&& d) f)

/-- OR (R274). -/
def aluOr (sz : Size) : Alu := fun s d f => (trunc sz (s ||| d), logicFlags sz (s ||| d) f)

/-- EOR (R276). -/
def aluEor (sz : Size) : Alu := fun s d f => (trunc sz (s ^^^ d), logicFlags sz (s ^^^ d) f)

/-- NEG: 0 - destination (R213); the source operand is not used. -/
def aluNeg (sz : Size) : Alu := fun _ d _ =>
  ((subN sz d 0#32 false).res, sumFlags sz (subN sz d 0#32 false))

/-- NEGX: 0 - destination - X, sticky Z, C the borrow (R214). -/
def aluNegx (sz : Size) : Alu := fun _ d f =>
  ((subN sz d 0#32 f.x).res, stickyFlags sz (subN sz d 0#32 f.x) f)

/-- NOT (R278). -/
def aluNot (sz : Size) : Alu := fun _ d f => (trunc sz (~~~d), logicFlags sz (~~~d) f)

/-- Flags of a compare of `d` with `s` (R216). -/
def compareCcr (sz : Size) (s d : Long) (f : Ccr) : Ccr := compareFlags sz (subN sz s d false) f

/-! ## Shifts and rotates (R290–R302) -/

/-- The eight shift and rotate operations. -/
inductive Shift where
  | asl | asr | lsl | lsr | rol | ror | roxl | roxr
  deriving DecidableEq, Repr

/-- What the loop of R294 carries: the value, X, and the last C and the accumulated V. -/
structure ShiftAcc where
  val : Long
  x : Bool
  c : Bool
  v : Bool
  deriving DecidableEq, Repr

/-- One bit in at the low end. -/
def shiftInLow (sz : Size) (v : Long) (b : Bool) : Long := trunc sz (v <<< 1) ||| (BitVec.ofBool b).setWidth 32

/-- One bit in at the high end. -/
def shiftInHigh (sz : Size) (v : Long) (b : Bool) : Long :=
  (v >>> 1) ||| (((BitVec.ofBool b).setWidth 32) <<< (sz.bits - 1))

/-- `step(v, X)` of R295–R302: the new value and the bit shifted out. -/
def shiftStep (k : Shift) (sz : Size) (v : Long) (x : Bool) : Long × Bool :=
  match k with
  | .asl | .lsl => (shiftInLow sz v false, msb sz v)
  | .asr => (shiftInHigh sz v (msb sz v), v.getLsbD 0)
  | .lsr => (shiftInHigh sz v false, v.getLsbD 0)
  | .rol => (shiftInLow sz v (msb sz v), msb sz v)
  | .ror => (shiftInHigh sz v (v.getLsbD 0), v.getLsbD 0)
  | .roxl => (shiftInLow sz v x, msb sz v)
  | .roxr => (shiftInHigh sz v x, v.getLsbD 0)

/-- One turn of the loop of R294. -/
def shiftOnce (k : Shift) (sz : Size) (t : ShiftAcc) : ShiftAcc :=
  let r := shiftStep k sz t.val t.x
  { val := r.1,
    x := match k with
      | .rol | .ror => t.x
      | _ => r.2,
    c := r.2,
    v := match k with
      | .asl => t.v || msb sz r.1 != msb sz t.val
      | _ => false }

/-- The loop of R294. -/
def shiftLoop (k : Shift) (sz : Size) : Nat → ShiftAcc → ShiftAcc
  | 0, t => t
  | n + 1, t => shiftLoop k sz n (shiftOnce k sz t)

/-- Result and flags of shifting `v` by `n` (R294); a ROX count of zero sets C to X. -/
def shiftBy (k : Shift) (sz : Size) (n : Nat) (v : Long) (f : Ccr) : Long × Ccr :=
  let c0 := match k with
    | .roxl | .roxr => f.x
    | _ => false
  let t := shiftLoop k sz n { val := v, x := f.x, c := c0, v := false }
  (t.val, { x := t.x, n := msb sz t.val, z := decide (t.val = 0#32), v := t.v, c := t.c })

/-! ## Bit operations (R322) -/

/-- BCHG. -/
def bitChange (old : Long) (b : Nat) : Long := old ^^^ (1#32 <<< b)
/-- BCLR. -/
def bitClear (old : Long) (b : Nat) : Long := old &&& ~~~(1#32 <<< b)
/-- BSET. -/
def bitSet (old : Long) (b : Nat) : Long := old ||| (1#32 <<< b)

/-! ## Packed decimal (R340–R343) -/

/-- Both nibbles are digits. -/
def bcdValid (v : Long) : Bool := decide ((v.extractLsb' 4 4).toNat ≤ 9) && decide ((v.extractLsb' 0 4).toNat ≤ 9)

/-- `dec(b)`. -/
def bcdDec (v : Long) : Nat := 10 * (v.extractLsb' 4 4).toNat + (v.extractLsb' 0 4).toNat

/-- `bcd(k)`. -/
def bcdEnc (k : Nat) : Long := BitVec.ofNat 32 ((k / 10) * 16 + k % 10)

/-- Result byte and decimal carry of ABCD on valid operands (R341). -/
def bcdSum (s d : Long) (x : Bool) : Long × Bool :=
  let t := bcdDec s + bcdDec d + x.toNat
  (bcdEnc (t % 100), decide (99 < t))

/-- Result byte and decimal borrow of SBCD and NBCD on valid operands (R342, R343). -/
def bcdDiff (s d : Long) (x : Bool) : Long × Bool :=
  let t : Int := (bcdDec d : Int) - bcdDec s - x.toNat
  (bcdEnc (t % 100).toNat, decide (t < 0))

/-- Flags after a decimal operation, N and V given (R345). -/
def bcdFlags (res : Long) (c n v : Bool) (f : Ccr) : Ccr :=
  { x := c, n := n, z := decide (trunc .b res = 0#32) && f.z, v := v, c := c }

/-! ## Multiply and divide (R252–R261) -/

/-- The product of two words (R252, R253). -/
def mulWord (signed : Bool) (s d : Long) : Long :=
  if signed then BitVec.ofInt 32 (signedOf .w s * signedOf .w d)
  else BitVec.ofNat 32 (unsignedOf .w s * unsignedOf .w d)

/-- The 64-bit product of two long words (R254, R255). -/
def mulLong (signed : Bool) (s d : Long) : BitVec 64 :=
  if signed then BitVec.ofInt 64 (s.toInt * d.toInt) else BitVec.ofNat 64 (s.toNat * d.toNat)

/-- V of the 32-bit product: the quad product does not fit (R254, R255). -/
def mulOverflows (signed : Bool) (p : BitVec 64) : Bool :=
  if signed then decide (p ≠ (p.setWidth 32).signExtend 64) else decide (p.extractLsb' 32 32 ≠ 0#32)

/-- Whether a quotient fits in `n` bits (R256 b, R257, R258). -/
def quotFits (signed : Bool) (n : Nat) (q : Int) : Bool :=
  if signed then decide (-(2 ^ (n - 1) : Int) ≤ q ∧ q ≤ 2 ^ (n - 1) - 1) else decide (q ≤ 2 ^ n - 1)

/-- N after a divide: the sign of the quotient at its width (R257, R258, R260, R261). -/
def quotNegative (n : Nat) (q : Int) : Bool := (BitVec.ofInt n q).getLsbD (n - 1)

/-! ## Bounds (R220) -/

/-- The bounds are ordered as unsigned or as signed values of size `sz`. -/
def boundsOrdered (sz : Size) (lb ub : Long) : Bool :=
  decide (unsignedOf sz lb ≤ unsignedOf sz ub) || decide (signedOf sz lb ≤ signedOf sz ub)

/-- `equal` of R220. -/
def boundsEqual (sz : Size) (x lb ub : Long) : Bool :=
  decide (trunc sz x = trunc sz lb) || decide (trunc sz x = trunc sz ub)

/-- `out` of R220. -/
def boundsOut (sz : Size) (x lb ub : Long) : Bool :=
  decide (unsignedOf sz (ub - lb) < unsignedOf sz (x - lb))

end Sys2Proof.Machine
end

