-- ==== Sys2Proof/Machine/Ops.lean ====
section
/-! DEFINITION. Sys2Proof/Machine/Ops.lean: the named operations over memory and registers, taking an exception and
returning from one (spec/10_state.md, 20_memory.md, 60_exceptions.md). An instruction is a computation `M Flow`: it
reads and updates the state in the order of the rule's pseudocode, and ends early by raising an exception or a
refusal, which keeps the state reached so far. -/

namespace Sys2Proof.Machine

/-! ## Memory as data (R60, R63, R64) -/

/-- The byte at an address. -/
def Memory.get : Memory → Nat → Byte
  | [], _ => unlistedByte
  | c :: m, a => if c.1 = a then c.2 else Memory.get m a

/-- Every entry of an address removed. -/
def Memory.erase : Memory → Nat → Memory
  | [], _ => []
  | c :: m, a => if c.1 = a then Memory.erase m a else c :: Memory.erase m a

/-- A new entry put before the first higher address. -/
def Memory.insert : Memory → Nat → Byte → Memory
  | [], a, v => [(a, v)]
  | c :: m, a, v => if a < c.1 then (a, v) :: c :: m else c :: Memory.insert m a v

/-- The byte at an address replaced, keeping the canonical form. -/
def Memory.set (m : Memory) (a : Nat) (v : Byte) : Memory :=
  if v = unlistedByte then m.erase a else (m.erase a).insert a v

/-- The cell of memory an address reaches: of its bits ADDR_BITS are driven (R60; log 5). -/
def busAddr (p : Params) (a : Nat) : Nat := a % 2 ^ p.addrBits

/-- The byte at an address (R60). -/
def State.byteAt (s : State) (a : Nat) : Byte := s.mem.get (busAddr s.params a)

/-- The big-endian value of the bytes at `a` (R62, R63). -/
def State.readAt (s : State) (a : Nat) (sz : Size) : Long :=
  match sz with
  | .b => (s.byteAt a).setWidth 32
  | .w => (s.byteAt a ++ s.byteAt (a + 1)).setWidth 32
  | .l => s.byteAt a ++ s.byteAt (a + 1) ++ s.byteAt (a + 2) ++ s.byteAt (a + 3)

/-- The bytes of an operand, most significant first (R62, R64). -/
def operandBytes (sz : Size) (v : Long) : List Byte :=
  match sz with
  | .b => [v.setWidth 8]
  | .w => [v.extractLsb' 8 8, v.setWidth 8]
  | .l => [v.extractLsb' 24 8, v.extractLsb' 16 8, v.extractLsb' 8 8, v.setWidth 8]

/-- An address put into a rising list of addresses. -/
def staleInsert : List Nat → Nat → List Nat
  | [], a => [a]
  | b :: l, a => if a < b then a :: b :: l else if a = b then b :: l else b :: staleInsert l a

/-! ## The address map (R78) -/

/-- An address lies in a region. -/
def regionHas (r : Region) (a : Nat) : Bool := decide (r.base ≤ a ∧ a < r.base + r.size)

/-- The kind of an address: the first region of MEM_MAP that has the cell it reaches, ram where none does. -/
def kindAt (p : Params) (a : Nat) : RegionKind :=
  match p.memMap.find? (fun r => regionHas r (busAddr p a)) with
  | some r => r.kind
  | none => .ram

/-- Every address from `a` on, `n` of them. -/
def addressesFrom (a n : Nat) : List Nat := (List.range n).map (a + ·)

/-- A device address among `n` from `a`. -/
def touchesDevice (p : Params) (a n : Nat) : Bool :=
  (addressesFrom a n).any fun b => kindAt p b matches .device _

/-- An unmapped address among `n` from `a`. -/
def touchesUnmapped (p : Params) (a n : Nat) : Bool :=
  (addressesFrom a n).any fun b => kindAt p b == .unmapped

/-- A rom address among `n` from `a`. -/
def touchesRom (p : Params) (a n : Nat) : Bool :=
  (addressesFrom a n).any fun b => kindAt p b == .rom

/-! ## What ends an instruction early -/

/-- The exceptions an instruction raises (R13, R451). -/
inductive Exc where
  | illegal
  | lineA
  | lineF
  | privilege
  | zeroDivide
  | chk
  | trapcc
  | trap (v : BitVec 4)
  | breakpoint
  | bgnd
  | formatError
  | addressError (addr : Long)
  | busError (addr : Long)
  deriving DecidableEq, Repr

/-- Why a computation stopped. -/
inductive Stop where
  | exc (e : Exc)
  | refuse (r : Refusal)
  deriving DecidableEq, Repr

/-- A computation on the machine; a stop keeps the state it was reached in. -/
abbrev M := EStateM Stop State

/-- A part of the state. -/
def M.read {α : Type} (f : State → α) : M α := fun s => .ok (f s) s
/-- A change of the state. -/
def M.update (f : State → State) : M Unit := fun s => .ok () (f s)
/-- `raise E` (R13). -/
def M.raise {α : Type} (e : Exc) : M α := fun s => .error (.exc e) s
/-- The model gives no meaning. -/
def M.refuse {α : Type} (r : Refusal) : M α := fun s => .error (.refuse r) s
/-- Stop for a reason, if there is one. -/
def M.guard (check : State → Option Stop) : M Unit := fun s =>
  match check s with
  | none => .ok () s
  | some e => .error e s

/-! ## Registers (R20–R33) -/

/-- The register index of a 3-bit field. -/
def regIdx (r : BitVec 3) : Fin 8 := ⟨r.toNat, r.isLt⟩

/-- The running context. -/
def State.ctx (s : State) : Ctx := s.ctxs[s.cur.val]

/-- The running context replaced. -/
def State.withCtx (s : State) (c : Ctx) : State := { s with ctxs := s.ctxs.set s.cur.val c }

/-- SP, the active stack pointer (R23). -/
def Ctx.sp (c : Ctx) : Long := if srS c.sr then c.ssp else c.usp

/-- The active stack pointer replaced. -/
def Ctx.withSp (c : Ctx) (v : Long) : Ctx := if srS c.sr then { c with ssp := v } else { c with usp := v }

/-- `D[r]`. -/
def Ctx.getD (c : Ctx) (r : BitVec 3) : Long := c.d.get (regIdx r)
/-- `D[r]` replaced, all 32 bits. -/
def Ctx.withD (c : Ctx) (r : BitVec 3) (v : Long) : Ctx := { c with d := c.d.set r.toNat v r.isLt }
/-- `A[r]`, A7 being SP. -/
def Ctx.getA (c : Ctx) (r : BitVec 3) : Long := if h : r.toNat < 7 then c.a[r.toNat] else c.sp
/-- `A[r]` replaced, all 32 bits (R21). -/
def Ctx.withA (c : Ctx) (r : BitVec 3) (v : Long) : Ctx :=
  if h : r.toNat < 7 then { c with a := c.a.set r.toNat v h } else c.withSp v
/-- `R[k]` (R9): bit 3 selects an address register. -/
def Ctx.getR (c : Ctx) (k : BitVec 4) : Long :=
  if k.getLsbD 3 then c.getA (k.setWidth 3) else c.getD (k.setWidth 3)
/-- `R[k]` replaced. -/
def Ctx.withR (c : Ctx) (k : BitVec 4) (v : Long) : Ctx :=
  if k.getLsbD 3 then c.withA (k.setWidth 3) v else c.withD (k.setWidth 3) v

/-- The condition codes. -/
def Ctx.ccr (c : Ctx) : Ccr := Ccr.ofWord c.sr
/-- SR as it is read: the word of SR_LAYOUT, unimplemented bits zero (R27, R29). -/
def State.srWord (s : State) : Word := srPack s.params.srLayout s.ctx.sr

/-- `D[r]`. -/
def getD (r : BitVec 3) : M Long := M.read fun s => s.ctx.getD r
/-- `setD(r, n, v)` (R9). -/
def setD (r : BitVec 3) (sz : Size) (v : Long) : M Unit :=
  M.update fun s => s.withCtx (s.ctx.withD r (insertLow sz (s.ctx.getD r) v))
/-- `A[r]`. -/
def getA (r : BitVec 3) : M Long := M.read fun s => s.ctx.getA r
/-- `A[r] <- v`. -/
def setA (r : BitVec 3) (v : Long) : M Unit := M.update fun s => s.withCtx (s.ctx.withA r v)
/-- `R[k]`. -/
def getR (k : BitVec 4) : M Long := M.read fun s => s.ctx.getR k
/-- `R[k] <- v`. -/
def setR (k : BitVec 4) (v : Long) : M Unit := M.update fun s => s.withCtx (s.ctx.withR k v)
/-- SP. -/
def getSp : M Long := M.read fun s => s.ctx.sp
/-- `SP <- v`. -/
def setSp (v : Long) : M Unit := M.update fun s => s.withCtx (s.ctx.withSp v)
/-- X, N, Z, V, C. -/
def getCcr : M Ccr := M.read fun s => s.ctx.ccr
/-- The five condition codes replaced; every other bit of SR kept. -/
def setCcr (f : Ccr) : M Unit := M.update fun s => s.withCtx { s.ctx with sr := putCcr s.ctx.sr f }
/-- SR replaced as a whole (R28). -/
def setSr (v : Word) : M Unit := M.update fun s => s.withCtx { s.ctx with sr := srUnpack s.params.srLayout v }
/-- The pc of the running context. -/
def getPc : M Long := M.read fun s => s.ctx.pc
/-- The pc of the running context replaced. -/
def setPc (v : Long) : M Unit := M.update fun s => s.withCtx { s.ctx with pc := v }

/-- `require_supervisor` (R17, R380). -/
def requireSupervisor : M Unit :=
  M.guard fun s => if srS s.ctx.sr then none else some (.exc .privilege)

/-- The implemented bits of a function code register (R32). -/
def fcMask (p : Params) (v : Long) : Long := v &&& BitVec.ofNat 32 (2 ^ p.fcWidth - 1)

/-! ## Free values (R15) -/

/-- A fresh arbitrary value. -/
def draw : M Long := fun s => .ok (Config.freeLong s.draws) { s with draws := s.draws + 1 }
/-- A fresh arbitrary bit. -/
def drawBit : M Bool := do return (← draw).getLsbD 0
/-- A fresh arbitrary operand. -/
def drawSized (sz : Size) : M Long := do return trunc sz (← draw)

/-- A fresh arbitrary context number (R501). -/
def drawCtxId : M CtxId := do return ⟨(← draw).toNat % 5, Nat.mod_lt _ (by decide)⟩

/-! ## Memory accesses (R61–R68, R77, R78) -/

/-- The pipeline flush of R77: later fetches see every store. -/
def State.flush (s : State) : State := { s with stale := [] }
/-- A pipeline-flushing event (R77, R380). -/
def flushPipeline : M Unit := M.update State.flush

/-- What forbids a data access of size `sz` at `a`, in this order: alignment (R66), the top of the address space (R61),
unbacked addresses and devices (R78); log 19. -/
def accessCheck (p : Params) (a : Long) (sz : Size) : Option Stop :=
  if sz ≠ .b ∧ a.getLsbD 0 = true ∧ p.misalign = .fault then some (.exc (.addressError a))
  else if 2 ^ 32 < a.toNat + sz.bytes then some (.refuse .addressWrap)
  else if touchesUnmapped p a.toNat sz.bytes then some (.exc (.busError a))
  else if touchesDevice p a.toNat sz.bytes then some (.refuse .deviceAccess)
  else none

/-- The same for a write, with the host's choice for rom (R78, U16). -/
def writeCheck (p : Params) (a : Long) (sz : Size) : Option Stop :=
  match accessCheck p a sz with
  | some e => some e
  | none =>
    if touchesRom p a.toNat sz.bytes ∧ p.romWrite = .busError then some (.exc (.busError a)) else none

/-- `MemRead(addr, nb)` (R63). -/
def memRead (a : Long) (sz : Size) : M Long := do
  M.guard fun s => accessCheck s.params a sz
  M.read fun s => s.readAt a.toNat sz

/-- One byte stored; rom keeps its byte. -/
def State.storeByte (s : State) (a : Nat) (v : Byte) : State :=
  if kindAt s.params a == .rom then s
  else { s with mem := s.mem.set (busAddr s.params a) v, stale := staleInsert s.stale (busAddr s.params a) }

/-- A byte stored since the last pipeline flush (R77). -/
def State.isStale (s : State) (a : Nat) : Bool := s.stale.contains (busAddr s.params a)

/-- Bytes stored at rising addresses. -/
def State.storeBytes (s : State) (a : Nat) : List Byte → State
  | [] => s
  | v :: vs => (s.storeByte a v).storeBytes (a + 1) vs

/-- `MemWrite(addr, nb, v)` (R64). -/
def memWrite (a : Long) (sz : Size) (v : Long) : M Unit := do
  M.guard fun s => writeCheck s.params a sz
  M.update fun s => s.storeBytes a.toNat (operandBytes sz v)

/-- The operand size as an address step. -/
def stepOf (sz : Size) : Long := BitVec.ofNat 32 sz.bytes

/-- A push: the write below SP, and SP moved once it has succeeded (R160 c). -/
def push (sz : Size) (v : Long) : M Unit := do
  let sp ← getSp
  memWrite (sp - stepOf sz) sz v
  setSp (sp - stepOf sz)

/-! ## Instruction fetch (R11, R65, R67, R77) -/

/-- What forbids the fetch of the instruction word at `a`: an odd address, an unmapped byte (in this order by R462), a byte
of a device, a stale byte. That a word wrong in two ways meets the first of these is the model's choice (log 53). -/
def fetchCheck (s : State) (a : Long) : Option Stop :=
  if a.getLsbD 0 then some (.exc (.addressError a))
  else if touchesUnmapped s.params a.toNat 2 then some (.exc (.busError a))
  else if touchesDevice s.params a.toNat 2 then some (.refuse .deviceAccess)
  else if s.params.prefetch = .refuse ∧ (s.isStale a.toNat || s.isStale (a.toNat + 1)) then
    some (.refuse .prefetchHazard)
  else none

/-- The address of extension word `k` of the instruction at `pc` (R11). -/
def extAddr (pc : Long) (k : Nat) : Long := pc + 2#32 + BitVec.ofNat 32 (2 * k)

/-- The fetch of `n` extension words from word `k` on: their values are in the decoded instruction, the fetch
happens here, when the pseudocode first uses them (R11, D43). -/
def touchExt (k : Nat) : Nat → M Unit
  | 0 => pure ()
  | n + 1 => do
    M.guard fun s => fetchCheck s (extAddr s.ctx.pc k)
    touchExt (k + 1) n

/-- The instruction word at `a`, without any check. -/
def State.codeWord (s : State) (a : Long) : Word := s.byteAt a.toNat ++ s.byteAt (a + 1#32).toNat

/-- Extension word `k`, decoded as `w` from the memory of `s0`, when it is fetched in `s` (R11, R77): where a store of
the instruction itself has changed it since, the word that memory holds now. -/
def laterWord (s0 s : State) (k : Nat) (w : Word) : Word :=
  let a := extAddr s0.ctx.pc k
  if s.codeWord a = s0.codeWord a then w else s.codeWord a

/-! ## Taking an exception (R452–R465) -/

/-- The handler address of vector `k` (R452). -/
def readVector (k : Byte) : M Long := do
  let vbr ← M.read fun s => s.ctx.vbr
  memRead (vbr + (k ++ 0#2).setWidth 32) .l

/-- The Format/Offset word (R455, R456). -/
def formatWord (six : Bool) (k : Byte) : Word := (if six then 2#4 else 0#4) ++ 0#2 ++ k ++ 0#2

/-- Exception entry (R460) by vector `k`: the frame holds SR, `spc` and the format word, and below them, in the
six-word format, the address `ipc`; an interrupt also raises the mask to its level. The entry flushes the
pipeline before it stores the frame, so the bytes of the frame stay stale: the model's choice (log 54). -/
def enterException (k : Byte) (spc : Long) (ipc : Option Long) (level : Option (BitVec 3)) : M Unit := do
  flushPipeline
  let old ← M.read State.srWord
  M.update fun s => s.withCtx { s.ctx with sr := srForEntry s.ctx.sr level }
  match ipc with
  | some a => push .l a
  | none => pure ()
  push .w ((formatWord ipc.isSome k).setWidth 32)
  push .l spc
  push .w (old.setWidth 32)
  setPc (← readVector k)

/-- The outcome of an exception entry; a fault inside it is the double fault of R463. -/
def takeEntry (entry : M Unit) (s : State) : Step :=
  match entry s with
  | .ok _ s' => .next s'
  | .error (.exc _) s' => .next { s' with mark := .doubleFault }
  | .error (.refuse r) _ => .refused r

/-- AddressError or BusError at `addr` in the instruction at `pc` (R465). -/
def memFault (kind : MemFault) (addr pc : Long) (s : State) : Step :=
  match s.params.faultPolicy with
  | .terminal => .next { s with mark := .faulted kind addr pc }
  | .vectored =>
    let k := match kind with
      | .address => s.params.vec.addressError
      | .bus => s.params.vec.busError
    takeEntry (enterException k pc (some addr) none) s

/-- An exception raised by the instruction of `words` words that began in `s0` and stands in `s`: which vector, which
frame, which saved pc (R453, R454, R457), and for the exceptions that change nothing, entry from `s0` (R451). -/
def raiseExc (words : Nat) (s0 s : State) (e : Exc) : Step :=
  let here := s0.ctx.pc
  let after := here + BitVec.ofNat 32 (2 * words)
  let vec := s0.params.vec
  match e with
  | .illegal => takeEntry (enterException vec.illegal here none none) s0
  | .lineA => takeEntry (enterException vec.lineA here none none) s0
  | .lineF => takeEntry (enterException vec.lineF here none none) s0
  | .privilege => takeEntry (enterException vec.privilege here none none) s0
  | .formatError => takeEntry (enterException vec.formatError here none none) s0
  | .breakpoint => takeEntry (enterException 12#8 here none none) s0
  | .zeroDivide => takeEntry (enterException vec.zeroDivide after (some here) none) s
  | .chk => takeEntry (enterException 6#8 after (some here) none) s
  | .trapcc => takeEntry (enterException 7#8 after (some here) none) s
  | .bgnd => takeEntry (enterException 12#8 after (some here) none) s
  | .trap v => takeEntry (enterException (2#4 ++ v) after none none) s
  | .addressError a => memFault .address a here s
  | .busError a => memFault .bus a here s

/-! ## Return from an exception (R394, R461) -/

/-- The bytes RTE frees for a frame whose Format/Offset word is `fw`; none for an unsupported format. -/
def frameSize (fw : Long) : Option Long :=
  match (fw.extractLsb' 12 4).toNat with
  | 0 => some 8#32
  | 2 => some 12#32
  | _ => none

/-! ## Scheduling (R42, R43) -/

/-- The READY contexts. -/
def readyList (s : State) : List CtxId := [0, 1, 2, 3, 4].filter fun i => s.ctxs[i.val].run == .ready

/-- `CTX_SCHED`: MC0 when READY, else one of the READY contexts; which one is open (log 3). -/
def chooseCtx (s : State) : Option CtxId :=
  if s.ctxs[0].run = .ready then some 0
  else
    let ready := readyList s
    ready[Config.schedChoice (s.ctxs.toList.map Ctx.run) s.cur.val % ready.length]?

/-- The CMU gives the CPU to the chosen context; a switch flushes the pipeline (R77, R514). With no READY context
`cur` stays as it is and the CPU idles. -/
def reschedule (s : State) : State :=
  match chooseCtx s with
  | none => s
  | some i => if i = s.cur then s else { s.flush with cur := i }

/-- The run state of context `i` replaced. -/
def State.setRun (s : State) (i : CtxId) (r : CtxState) : State :=
  { s with ctxs := s.ctxs.set i.val { s.ctxs[i.val] with run := r } }

/-! ## Running one instruction (R11, R462) -/

/-- How an instruction that completes leaves the pc and the scheduler. -/
inductive Flow where
  /-- on to the next instruction -/
  | next
  /-- a taken branch, jump or return to `t` -/
  | goto (t : Long)
  /-- on to the next instruction, after a write of SR as a whole -/
  | srWritten
  /-- on to the next instruction, after a change of a run state -/
  | sleep
  /-- after both -/
  | srSleep
  /-- LPSTOP from MC0: nothing executes after it -/
  | halt
  deriving DecidableEq, Repr

/-- The pc an instruction leaves, when the next instruction is at `after`. -/
def Flow.target (f : Flow) (after : Long) : Long :=
  match f with
  | .goto t => t
  | _ => after

/-- A change of program flow for T0 (R475): a transfer or an SR write; log 25. -/
def Flow.changesFlow : Flow → Bool
  | .goto _ | .srWritten | .srSleep => true
  | _ => false

/-- The scheduler runs when a run state has changed (R43). -/
def Flow.settle (f : Flow) (s : State) : State :=
  match f with
  | .sleep | .srSleep => reschedule s
  | _ => s

/-- What tracing does after an instruction. -/
inductive TraceAction where
  | none | trap | refuse
  deriving DecidableEq, Repr

/-- Tracing under TRACE_POLICY = cpu32 of an instruction that began with status `sr` (R475). Under refuse an instruction
that began with a trace bit, which then came with a RESET_STATE or CTX_INIT register set, runs untraced (log 49). -/
def traceAction (p : Params) (sr : Word) (changesFlow : Bool) : TraceAction :=
  match p.tracePolicy with
  | .refuse | .ignore => .none
  | .cpu32 =>
    match srT1 sr, srT0 sr with
    | false, false => .none
    | true, false => .trap
    | false, true => if changesFlow then .trap else .none
    | true, true => .refuse

/-- An instruction of `words` words that began in `s0` completes in `s`: the pc, then tracing, then the
scheduler. LPSTOP from MC0 (`Flow.halt`) is not traced (log 25), nor refused where it began with T1:T0 = 11 (log 56). -/
def complete (words : Nat) (s0 s : State) (f : Flow) : Step :=
  let here := s0.ctx.pc
  let t := f.target (here + BitVec.ofNat 32 (2 * words))
  let s1 := s.withCtx { s.ctx with pc := t }
  match (if f = .halt then .none else traceAction s0.params s0.ctx.sr f.changesFlow) with
  | .none => .next (f.settle s1)
  | .trap =>
    match takeEntry (enterException s0.params.vec.trace t (some here) none) s1 with
    | .next s2 => .next (f.settle s2)
    | o => o
  | .refuse => .refused .traceBits

/-- One instruction of `words` words. -/
def runInstr (words : Nat) (body : M Flow) (s : State) : Step :=
  match body s with
  | .ok f s' => complete words s s' f
  | .error (.exc e) s' => raiseExc words s s' e
  | .error (.refuse r) _ => .refused r

end Sys2Proof.Machine
end

