-- ==== Sys2Proof/Machine/Operands.lean ====
section
/-! DEFINITION. Sys2Proof/Machine/Operands.lean: effective addresses and operand accesses (spec/30_encoding.md
R110–R128, 20_memory.md R68, R70, 40_data_movement.md R160 c). -/

namespace Sys2Proof.Machine

/-- Where an operand is. -/
inductive Loc where
  | dreg (r : BitVec 3)
  | areg (r : BitVec 3)
  | mem (a : Long)
  | imm (v : Long)
  deriving DecidableEq, Repr

/-- An operand's place, and the address-register update its mode makes once the access has succeeded (R115, R116:
an access that faults leaves the register as it was). -/
structure Place where
  loc : Loc
  upd : Option (BitVec 3 × Long)
  deriving DecidableEq, Repr

/-- The step of `(An)+` and `-(An)`: the operand size, but A7_BYTE_STEP for a byte through A7 (R68). -/
def autoStep (p : Params) (r : BitVec 3) (sz : Size) : Long :=
  if sz = .b ∧ r = 7#3 then
    match p.a7Step with
    | .one => 1#32
    | .two => 2#32
  else stepOf sz

/-- The index operand, scaled, modulo 2^32 (R119, R120). -/
def indexValue (c : Ctx) (x : Index) : Long :=
  (if x.long then c.getR x.reg else sext .w (c.getR x.reg)) <<< x.scale.toNat

/-- The base displacement (R118). -/
def baseDispValue : BaseDisp → Long
  | .null => 0#32
  | .word d => d.signExtend 32
  | .long d => d

/-- The words of a base displacement (R118). -/
def baseDispCount : BaseDisp → Nat
  | .null => 0
  | .word _ => 1
  | .long _ => 2

/-- The address of an indexed mode whose extension is word `k` (R120–R123). -/
def indexedAddr (base : Long) (x : IdxExt) (k : Nat) : M Long := do
  touchExt k 1
  match x with
  | .brief i d => M.read fun s => base + indexValue s.ctx i + d.signExtend 32
  | .full i bs is bd => do
    touchExt (k + 1) (baseDispCount bd)
    M.read fun s => (if bs then 0#32 else base) + (if is then 0#32 else indexValue s.ctx i) + baseDispValue bd
  | .illegal _ => M.raise .illegal
  | .unstated _ => M.refuse .fullExtension

/-- The place of an operand of size `sz` whose extension words begin at word `k` (R112–R125). -/
def locate (ea : EA) (sz : Size) (k : Nat) : M Place :=
  match ea with
  | .dn n => pure ⟨.dreg n, none⟩
  | .an n => pure ⟨.areg n, none⟩
  | .ind n => M.read fun s => ⟨.mem (s.ctx.getA n), none⟩
  | .postinc n => M.read fun s =>
      ⟨.mem (s.ctx.getA n), some (n, s.ctx.getA n + autoStep s.params n sz)⟩
  | .predec n => M.read fun s =>
      ⟨.mem (s.ctx.getA n - autoStep s.params n sz), some (n, s.ctx.getA n - autoStep s.params n sz)⟩
  | .disp n d => do
    touchExt k 1
    M.read fun s => ⟨.mem (s.ctx.getA n + d.signExtend 32), none⟩
  | .idx n x => do
    let a ← indexedAddr (← getA n) x k
    return ⟨.mem a, none⟩
  | .absW w => do
    touchExt k 1
    return ⟨.mem (w.signExtend 32), none⟩
  | .absL a => do
    touchExt k 2
    return ⟨.mem a, none⟩
  | .pcDisp d => do
    touchExt k 1
    M.read fun s => ⟨.mem (extAddr s.ctx.pc k + d.signExtend 32), none⟩
  | .pcIdx x => do
    let a ← indexedAddr (extAddr (← getPc) k) x k
    return ⟨.mem a, none⟩
  | .imm v => do
    touchExt k (EA.extWords sz (.imm v))
    return ⟨.imm v, none⟩

/-- The operand at a place, in the low bits. -/
def readLoc (sz : Size) : Loc → M Long
  | .dreg r => M.read fun s => trunc sz (s.ctx.getD r)
  | .areg r => M.read fun s => trunc sz (s.ctx.getA r)
  | .mem a => memRead a sz
  | .imm v => pure (trunc sz v)

/-- An operand stored at a place. No instruction's destination is an address register or an immediate (R113, R126). -/
def writeLoc (sz : Size) (v : Long) : Loc → M Unit
  | .dreg r => setD r sz v
  | .mem a => memWrite a sz v
  | .areg _ | .imm _ => M.refuse .illFormed

/-- The register update of `(An)+` and `-(An)`, once per operand (R12). -/
def commit (p : Place) : M Unit :=
  match p.upd with
  | none => pure ()
  | some (r, v) => setA r v

/-- `ReadEA(ea, nb)` (R126). -/
def readEA (ea : EA) (sz : Size) (k : Nat) : M Long := do
  let p ← locate ea sz k
  let v ← readLoc sz p.loc
  commit p
  return v

/-- `WriteEA(ea, nb, v)` (R126). -/
def writeEA (ea : EA) (sz : Size) (k : Nat) (v : Long) : M Unit := do
  let p ← locate ea sz k
  writeLoc sz v p.loc
  commit p

/-- A read-modify-write of one operand: one address, read, then written, then the register update and the flags
(R12, R70). -/
def modifyEA (ea : EA) (sz : Size) (k : Nat) (f : Long → Ccr → M (Long × Ccr)) : M Unit := do
  let p ← locate ea sz k
  let d ← readLoc sz p.loc
  let r ← f d (← getCcr)
  writeLoc sz r.1 p.loc
  commit p
  setCcr r.2

/-- A read-modify-write whose rule sets the flags before it stores: BCHG, BCLR, BSET, TAS and the memory shifts (R322,
R327, R293). A store that faults leaves the flags set (R160 c). -/
def modifyEAFlagsFirst (ea : EA) (sz : Size) (k : Nat) (f : Long → Ccr → Long × Ccr) : M Unit := do
  let p ← locate ea sz k
  let d ← readLoc sz p.loc
  let r := f d (← getCcr)
  setCcr r.2
  writeLoc sz r.1 p.loc
  commit p

/-- `AddrEA(ea, nb)` of an instruction that uses an effective address as an address (R128). -/
def addrEA (ea : EA) (k : Nat) : M Long := do
  let p ← locate ea .l k
  match p.loc with
  | .mem a => pure a
  | _ => M.refuse .illFormed

/-- Under `Params.undefined` = refuse, the refusal the spec advises where a value is `undef` (R516; logs 13 and 14). -/
def refuseUndefined (r : Refusal) : M Unit :=
  M.guard fun s => if s.params.undefined = .refuse then some (.refuse r) else none

/-- An operation of fixed result as a computation. -/
def pureAlu (f : Alu) (s d : Long) (c : Ccr) : M (Long × Ccr) := pure (f s d c)

/-- The free result byte and carry of a decimal operation on bytes that are no digits (R344). -/
def drawBcd : M (Long × Bool) := do
  let res ← drawSized .b
  let c ← drawBit
  return (res, c)

/-- ABCD on any operands: the result byte, C and N, V are free where the spec leaves them so (R341, R344, R345). -/
def bcdAdd (s d : Long) (f : Ccr) : M (Long × Ccr) := do
  let r ← if bcdValid s && bcdValid d then pure (bcdSum s d f.x) else drawBcd
  let n ← drawBit
  let v ← drawBit
  return (r.1, bcdFlags r.1 r.2 n v f)

/-- SBCD, and NBCD with destination 0 (R342–R345). -/
def bcdSub (s d : Long) (f : Ccr) : M (Long × Ccr) := do
  let r ← if bcdValid s && bcdValid d then pure (bcdDiff s d f.x) else drawBcd
  let n ← drawBit
  let v ← drawBit
  return (r.1, bcdFlags r.1 r.2 n v f)

end Sys2Proof.Machine
end

