-- ==== Sys2Proof/Machine/Shapes.lean ====
section
/-! DEFINITION. Sys2Proof/Machine/Shapes.lean: the shared shapes of the instructions of spec files 40 to 47. Each
instruction's meaning is one application of a shape; `words` counts below give `ilen` (R104). -/

namespace Sys2Proof.Machine

/-- The number of words of an immediate (R125). -/
def immCount (sz : Size) : Nat :=
  match sz with
  | .l => 2
  | _ => 1

/-- A class-Q operation word: the model refuses it (R150). -/
def refuseWith (r : Refusal) (_ : State) : Step := .refused r

/-- The flags of `logic_flags` from an operand (R271). -/
def setLogicFlags (sz : Size) (v : Long) : M Unit := do
  let f ← getCcr
  setCcr (logicFlags sz v f)

/-! ## Data movement (40_data_movement.md) -/

/-- The destination's `(An)+` or `-(An)` register is the register moved (R72). -/
def storesItself (src dst : EA) : Bool :=
  match src, dst with
  | .an n, .postinc m => n == m
  | .an n, .predec m => n == m
  | _, _ => false

/-- MOVE (R162). A register stored through its own `(An)+` or `-(An)` is a free value, or a refusal (R72, U8; log 13). -/
def opMove (sz : Size) (src dst : EA) (s : State) : Step :=
  runInstr (1 + src.extWords sz + dst.extWords sz) (do
    let v ← readEA src sz 0
    let v ← if storesItself src dst then do
        refuseUndefined .storesItself
        drawSized sz
      else pure v
    writeEA dst sz (src.extWords sz) v
    setLogicFlags sz v
    return .next) s

/-- MOVEA (R163): the loaded value is written after a postincrement of the same register. -/
def opMovea (sz : Size) (src : EA) (r : BitVec 3) (s : State) : Step :=
  runInstr (1 + src.extWords sz) (do
    let v ← readEA src sz 0
    setA r (sext sz v)
    return .next) s

/-- MOVEQ (R164). -/
def opMoveq (r : BitVec 3) (d : Byte) (s : State) : Step :=
  runInstr 1 (do
    let v := d.signExtend 32
    setD r .l v
    setLogicFlags .l v
    return .next) s

/-- The registers of a MOVEM mask in transfer order, bit k standing for `R[k]` (R165). -/
def maskRegs (mask : Word) : List (BitVec 4) :=
  ((List.range 16).filter fun k => mask.getLsbD k).map fun k => BitVec.ofNat 4 k

/-- The registers of a reversed mask, bit k standing for `R[15-k]` (R165, R167). -/
def maskRegsDown (mask : Word) : List (BitVec 4) := (maskRegs mask).map fun k => 15#4 - k

/-- Stores at rising addresses (R166). -/
def storeUp (sz : Size) : List (BitVec 4) → Long → M Unit
  | [], _ => pure ()
  | k :: ks, a => do
    memWrite a sz (← getR k)
    storeUp sz ks (a + stepOf sz)

/-- Stores at falling addresses through `A[n]`, whose initial value is `init`; answers the last address (R167, R168 a). -/
def storeDown (sz : Size) (n : BitVec 3) (init : Long) : List (BitVec 4) → Long → M Long
  | [], a => pure a
  | k :: ks, a => do
    let v ← getR k
    memWrite (a - stepOf sz) sz (if k = 1#1 ++ n then init - stepOf sz else v)
    storeDown sz n init ks (a - stepOf sz)

/-- MOVEM registers to memory (R166, R167). -/
def opMovemStore (sz : Size) (mask : Word) (ea : EA) (s : State) : Step :=
  runInstr (2 + ea.extWords sz) (do
    touchExt 0 1
    match ea with
    | .predec n => do
      let init ← getA n
      let last ← storeDown sz n init (maskRegsDown mask) init
      setA n last
      return .next
    | ea => do
      let a ← addrEA ea 1
      storeUp sz (maskRegs mask) a
      return .next) s

/-- Loads from rising addresses; answers the address after the last (R169). -/
def loadUp (sz : Size) : List (BitVec 4) → Long → M Long
  | [], a => pure a
  | k :: ks, a => do
    let v ← memRead a sz
    setR k (sext sz v)
    loadUp sz ks (a + stepOf sz)

/-- Loads through `(An)+`: the value fetched for `A[n]` itself is kept apart (R168 b, R169). Answers the address
after the last and that value. -/
def loadPostinc (sz : Size) (n : BitVec 3) : List (BitVec 4) → Long → Option Long → M (Long × Option Long)
  | [], a, own => pure (a, own)
  | k :: ks, a, own => do
    let v ← memRead a sz
    if k = 1#1 ++ n then loadPostinc sz n ks (a + stepOf sz) (some (sext sz v))
    else do
      setR k (sext sz v)
      loadPostinc sz n ks (a + stepOf sz) own

/-- MOVEM memory to registers (R169), `A[n]` of `(An)+` in the list by MOVEM_SELF_LOAD (R168 b). Under
fetched_plus_size a word is sign-extended before the operand length is added: R168 does not say which comes first, and
the order is the model's choice (log 50). -/
def opMovemLoad (sz : Size) (mask : Word) (ea : EA) (s : State) : Step :=
  runInstr (2 + ea.extWords sz) (do
    touchExt 0 1
    match ea with
    | .postinc n => do
      let (last, own) ← loadPostinc sz n (maskRegs mask) (← getA n) none
      let policy ← M.read fun s => s.params.movemSelfLoad
      match own, policy with
      | some v, .fetchedPlusSize => setA n (v + stepOf sz)
      | _, _ => setA n last
      return .next
    | ea => do
      let a ← addrEA ea 1
      let _ ← loadUp sz (maskRegs mask) a
      return .next) s

/-- The address of a MOVEP (R171). -/
def movepAddr (y : BitVec 3) (d : Word) : M Long := do
  touchExt 0 1
  return (← getA y) + d.signExtend 32

/-- Bytes at every second address (R171). -/
def storeAlternate : List Byte → Long → M Unit
  | [], _ => pure ()
  | b :: bs, a => do
    memWrite a .b (b.setWidth 32)
    storeAlternate bs (a + 2#32)

/-- MOVEP.W to memory (R171). -/
def opMovepStoreW (x y : BitVec 3) (d : Word) (s : State) : Step :=
  runInstr 2 (do
    let a ← movepAddr y d
    storeAlternate (operandBytes .w (← getD x)) a
    return .next) s

/-- MOVEP.L to memory (R171). -/
def opMovepStoreL (x y : BitVec 3) (d : Word) (s : State) : Step :=
  runInstr 2 (do
    let a ← movepAddr y d
    storeAlternate (operandBytes .l (← getD x)) a
    return .next) s

/-- `n` bytes from every second address, most significant first (R171). -/
def loadAlternate : Nat → Long → Long → M Long
  | 0, _, acc => pure acc
  | n + 1, a, acc => do
    let v ← memRead a .b
    loadAlternate n (a + 2#32) ((acc <<< 8) ||| v)

/-- MOVEP.W to a register (R171). -/
def opMovepLoadW (x y : BitVec 3) (d : Word) (s : State) : Step :=
  runInstr 2 (do
    let a ← movepAddr y d
    setD x .w (← loadAlternate 2 a 0#32)
    return .next) s

/-- MOVEP.L to a register (R171). -/
def opMovepLoadL (x y : BitVec 3) (d : Word) (s : State) : Step :=
  runInstr 2 (do
    let a ← movepAddr y d
    setD x .l (← loadAlternate 4 a 0#32)
    return .next) s

/-- EXG (R172). -/
def opExg (k1 k2 : BitVec 4) (s : State) : Step :=
  runInstr 1 (do
    let v1 ← getR k1
    let v2 ← getR k2
    setR k1 v2
    setR k2 v1
    return .next) s

/-- LEA (R173). -/
def opLea (r : BitVec 3) (ea : EA) (s : State) : Step :=
  runInstr (1 + ea.extWords .l) (do
    setA r (← addrEA ea 0)
    return .next) s

/-- PEA: the address with the old SP, then the push (R174). -/
def opPea (ea : EA) (s : State) : Step :=
  runInstr (1 + ea.extWords .l) (do
    push .l (← addrEA ea 0)
    return .next) s

/-- LINK with `n` displacement words (R175); LINK A7 is refused (U12; log 16). -/
def opLink (n : Nat) (r : BitVec 3) (d : Long) (s : State) : Step :=
  runInstr (1 + n) (do
    if r = 7#3 then M.refuse .linkA7
    touchExt 0 n
    push .l (← getA r)
    let sp ← getSp
    setA r sp
    setSp (sp + d)
    return .next) s

/-- UNLK (R176): SP moves once the read has succeeded; UNLK A7 is refused (U12; log 16). -/
def opUnlk (r : BitVec 3) (s : State) : Step :=
  runInstr 1 (do
    if r = 7#3 then M.refuse .unlkA7
    let a ← getA r
    let v ← memRead a .l
    setA r v
    setSp (a + 4#32)
    return .next) s

/-! ## Arithmetic and logic (41_integer_arithmetic.md, 43_logic.md) -/

/-- `op #imm,ea` (R204, R209, R273, R275, R277). -/
def opImmToEa (f : Size → Alu) (sz : Size) (imm : Long) (dst : EA) (s : State) : Step :=
  runInstr (1 + immCount sz + dst.extWords sz) (do
    touchExt 0 (immCount sz)
    modifyEA dst sz (immCount sz) (pureAlu (f sz) imm)
    return .next) s

/-- CMPI (R218). -/
def opImmCompare (sz : Size) (imm : Long) (dst : EA) (s : State) : Step :=
  runInstr (1 + immCount sz + dst.extWords sz) (do
    touchExt 0 (immCount sz)
    let d ← readEA dst sz (immCount sz)
    let f ← getCcr
    setCcr (compareCcr sz imm d f)
    return .next) s

/-- `op ea,Dn` (R202, R207, R272, R274). -/
def opEaToDn (f : Size → Alu) (sz : Size) (r : BitVec 3) (src : EA) (s : State) : Step :=
  runInstr (1 + src.extWords sz) (do
    let v ← readEA src sz 0
    let d ← readLoc sz (.dreg r)
    let c ← getCcr
    setD r sz (f sz v d c).1
    setCcr (f sz v d c).2
    return .next) s

/-- `op Dn,ea` (R202, R207, R272, R274, R276). -/
def opDnToEa (f : Size → Alu) (sz : Size) (r : BitVec 3) (dst : EA) (s : State) : Step :=
  runInstr (1 + dst.extWords sz) (do
    let v ← readLoc sz (.dreg r)
    modifyEA dst sz 0 (pureAlu (f sz) v)
    return .next) s

/-- One-operand read-modify-write: NEG, NEGX, NOT (R213, R214, R278). -/
def opSingle (f : Size → Alu) (sz : Size) (dst : EA) (s : State) : Step :=
  runInstr (1 + dst.extWords sz) (do
    modifyEA dst sz 0 (pureAlu (f sz) 0#32)
    return .next) s

/-- CLR: a write without a read (R212). -/
def opClr (sz : Size) (dst : EA) (s : State) : Step :=
  runInstr (1 + dst.extWords sz) (do
    writeEA dst sz 0 0#32
    setLogicFlags sz 0#32
    return .next) s

/-- ADDA, SUBA (R203, R208). -/
def opAddressArith (g : Long → Long → Long) (sz : Size) (r : BitVec 3) (src : EA) (s : State) : Step :=
  runInstr (1 + src.extWords sz) (do
    let v ← readEA src sz 0
    setA r (g (← getA r) (sext sz v))
    return .next) s

/-- The datum of ADDQ and SUBQ: 000 is 8 (R205). -/
def quickData (q : BitVec 3) : Long := if q = 0#3 then 8#32 else q.setWidth 32

/-- ADDQ, SUBQ: an address register whole and without flags, else as ADDI, SUBI (R205, R210). -/
def opQuick (f : Size → Alu) (g : Long → Long → Long) (sz : Size) (q : BitVec 3) (dst : EA) (s : State) : Step :=
  runInstr (1 + dst.extWords sz) (do
    match dst with
    | .an r => setA r (g (← getA r) (quickData q))
    | dst => modifyEA dst sz 0 (pureAlu (f sz) (quickData q))
    return .next) s

/-- ADDX, SUBX, ABCD, SBCD: data registers, or memory through predecrement, the source first (R206, R211, R341, R342). -/
def opExtended (f : Long → Long → Ccr → M (Long × Ccr)) (sz : Size) (x : BitVec 3) (mem : Bool) (y : BitVec 3)
    (s : State) : Step :=
  runInstr 1 (do
    let v ← readEA (if mem then .predec y else .dn y) sz 0
    modifyEA (if mem then .predec x else .dn x) sz 0 (f v)
    return .next) s

/-- EXT, EXTB: size `src` widened to size `dst` (R215). -/
def opExt (src dst : Size) (r : BitVec 3) (s : State) : Step :=
  runInstr 1 (do
    let v ← getD r
    setD r dst (sext src v)
    setLogicFlags dst (sext src v)
    return .next) s

/-- CMP (R216). -/
def opCmp (sz : Size) (r : BitVec 3) (src : EA) (s : State) : Step :=
  runInstr (1 + src.extWords sz) (do
    let v ← readEA src sz 0
    let d ← getD r
    let f ← getCcr
    setCcr (compareCcr sz v d f)
    return .next) s

/-- CMPA: a 32-bit compare with the sign-extended source (R217). -/
def opCmpa (sz : Size) (r : BitVec 3) (src : EA) (s : State) : Step :=
  runInstr (1 + src.extWords sz) (do
    let v ← readEA src sz 0
    let d ← getA r
    let f ← getCcr
    setCcr (compareCcr .l (sext sz v) d f)
    return .next) s

/-- CMPM (R219). -/
def opCmpm (sz : Size) (x y : BitVec 3) (s : State) : Step :=
  runInstr 1 (do
    let v ← readEA (.postinc y) sz 0
    let d ← readEA (.postinc x) sz 0
    let f ← getCcr
    setCcr (compareCcr sz v d f)
    return .next) s

/-- TST (R279). -/
def opTst (sz : Size) (src : EA) (s : State) : Step :=
  runInstr (1 + src.extWords sz) (do
    let v ← readEA src sz 0
    setLogicFlags sz v
    return .next) s

/-- A special word with reserved bits: fetched, then refused unless they are zero (R151, Q9). -/
def specialWord (reservedZero : Bool) : M Unit := do
  touchExt 0 1
  if reservedZero then pure () else M.refuse .reservedBits

/-- `bounds` of R220 for CMP2 and CHK2: `equal` and `out`; bounds ordered in neither reading are refused (R516, U13, D30),
once both are read (log 15). -/
def boundsTest (sz : Size) (xr : BitVec 4) (a : Long) : M (Bool × Bool) := do
  let lb ← memRead a sz
  let ub ← memRead (a + stepOf sz) sz
  let x ← getR xr
  let isA := xr.getLsbD 3
  let m := if isA then Size.l else sz
  let lb := if isA then sext sz lb else lb
  let ub := if isA then sext sz ub else ub
  if boundsOrdered m lb ub then return (boundsEqual m x lb ub, boundsOut m x lb ub)
  else M.refuse .unorderedBounds

/-- Flags of CMP2 and CHK2: Z equal, C out, N and V free (R221, U5); answers `out`. -/
def boundsFlags (sz : Size) (xr : BitVec 4) (a : Long) : M Bool := do
  let (equal, out) ← boundsTest sz xr a
  let n ← drawBit
  let v ← drawBit
  let f ← getCcr
  setCcr { x := f.x, n := n, z := equal, v := v, c := out }
  return out

/-- CMP2 (R221). -/
def opCmp2 (sz : Size) (xr : BitVec 4) (rsv : BitVec 11) (ea : EA) (s : State) : Step :=
  runInstr (2 + ea.extWords sz) (do
    specialWord (rsv == 0#11)
    let a ← addrEA ea 1
    let _ ← boundsFlags sz xr a
    return .next) s

/-! ## Multiply and divide (42_multiply_divide.md) -/

/-- MULS.W, MULU.W (R252, R253). -/
def opMulW (signed : Bool) (r : BitVec 3) (src : EA) (s : State) : Step :=
  runInstr (1 + src.extWords .w) (do
    let v ← readEA src .w 0
    let d ← getD r
    setD r .l (mulWord signed v d)
    setLogicFlags .l (mulWord signed v d)
    return .next) s

/-- MULS.L, MULU.L (R254, R255); the 64-bit product in one register leaves it, N, Z and V free, or is refused (U9;
log 14). -/
def opMulL (signed : Bool) (r15 : BitVec 1) (l : BitVec 3) (quad : Bool) (rsv : BitVec 7) (h : BitVec 3) (src : EA)
    (s : State) : Step :=
  runInstr (2 + src.extWords .l) (do
    specialWord (r15 == 0#1 && rsv == 0#7)
    if quad && h == l then refuseUndefined .productRegister
    let v ← readEA src .l 1
    let d ← getD l
    let f ← getCcr
    let p := mulLong signed v d
    let lo := p.setWidth 32
    if !quad then do
      setD l .l lo
      setCcr { x := f.x, n := msb .l lo, z := decide (lo = 0#32), v := mulOverflows signed p, c := false }
    else if h = l then do
      setD l .l (← draw)
      let n ← drawBit
      let z ← drawBit
      let o ← drawBit
      setCcr { x := f.x, n := n, z := z, v := o, c := false }
    else do
      setD h .l (p.extractLsb' 32 32)
      setD l .l lo
      setCcr { x := f.x, n := p.getLsbD 63, z := decide (p = 0#64), v := false, c := false }
    return .next) s

/-- Flags of a divide that writes nothing: C clear, V as given, N and Z free (R256 a, b; U6). -/
def divFailFlags (v : Bool) : M Unit := do
  let f ← getCcr
  let n ← drawBit
  let z ← drawBit
  setCcr { x := f.x, n := n, z := z, v := v, c := false }

/-- A divide of `dd` by `dv` with an `n`-bit quotient (R256): the zero divide, the overflow, or `store` with quotient
and remainder and the flags of the quotient. -/
def divide (signed : Bool) (n : Nat) (dd dv : Int) (store : Int → Int → M Unit) : M Unit :=
  if dv = 0 then do
    let v ← drawBit
    divFailFlags v
    M.raise .zeroDivide
  else do
    let q := dd.tdiv dv
    let rem := dd.tmod dv
    if quotFits signed n q then do
      store q rem
      let f ← getCcr
      setCcr { x := f.x, n := quotNegative n q, z := decide (q = 0), v := false, c := false }
    else divFailFlags true

/-- DIVS.W, DIVU.W (R257, R258). -/
def opDivW (signed : Bool) (r : BitVec 3) (src : EA) (s : State) : Step :=
  runInstr (1 + src.extWords .w) (do
    let v ← readEA src .w 0
    let d ← getD r
    let dv : Int := if signed then signedOf .w v else unsignedOf .w v
    let dd : Int := if signed then d.toInt else d.toNat
    divide signed 16 dd dv fun q rem => setD r .l (BitVec.ofInt 16 rem ++ BitVec.ofInt 16 q)
    return .next) s

/-- The dividend of a long divide (R259). -/
def longDividend (signed quad : Bool) (hi lo : Long) : Int :=
  if quad then (if signed then (hi ++ lo).toInt else (hi ++ lo).toNat)
  else if signed then lo.toInt else lo.toNat

/-- DIVS.L, DIVSL.L, DIVU.L, DIVUL.L (R260, R261); the 64-bit form with Dr = Dq is refused (Q8). -/
def opDivL (signed : Bool) (r15 : BitVec 1) (q : BitVec 3) (quad : Bool) (rsv : BitVec 7) (r : BitVec 3) (src : EA)
    (s : State) : Step :=
  runInstr (2 + src.extWords .l) (do
    specialWord (r15 == 0#1 && rsv == 0#7)
    if quad && r == q then M.refuse .divQuadSameRegister
    let v ← readEA src .l 1
    let hi ← getD r
    let lo ← getD q
    let dv : Int := if signed then v.toInt else v.toNat
    divide signed 32 (longDividend signed quad hi lo) dv fun quo rem => do
      if r = q then pure () else setD r .l (BitVec.ofInt 32 rem)
      setD q .l (BitVec.ofInt 32 quo)
    return .next) s

/-! ## Shifts, bits and decimals (44 to 46) -/

/-- The register form of a shift or rotate (R291, R293). -/
def opShiftReg (k : Shift) (sz : Size) (count : BitVec 3) (byReg : Bool) (r : BitVec 3) (s : State) : Step :=
  runInstr 1 (do
    let c ← getD count
    let n := if byReg then (c.setWidth 6).toNat else (quickData count).toNat
    modifyEAFlagsFirst (.dn r) sz 0 (shiftBy k sz n)
    return .next) s

/-- The memory form: one word, one bit; the steps of R294 set the flags, after them the result is stored (R292, R293). -/
def opShiftMem (k : Shift) (dst : EA) (s : State) : Step :=
  runInstr (1 + dst.extWords .w) (do
    modifyEAFlagsFirst dst .w 0 (shiftBy k .w 1)
    return .next) s

/-- SWAP (R304). -/
def opSwap (r : BitVec 3) (s : State) : Step :=
  runInstr 1 (do
    let v ← getD r
    let w : Long := v.extractLsb' 0 16 ++ v.extractLsb' 16 16
    setD r .l w
    setLogicFlags .l w
    return .next) s

/-- The operand size of a bit operation: a data register whole, memory by bytes (R322). -/
def bitSize (ea : EA) : Size :=
  match ea with
  | .dn _ => .l
  | _ => .b

/-- The bit number modulo the operand's width (R322). -/
def bitIndex (ea : EA) (num : Long) : Nat := num.toNat % (bitSize ea).bits

/-- Flags with Z set when the bit is zero (R322). -/
def bitFlags (v : Long) (b : Nat) (f : Ccr) : Ccr := { f with z := !v.getLsbD b }

/-- BCHG, BCLR, BSET on an operand whose extension begins at word `k`: Z is set before the store (R322). -/
def bitModify (g : Long → Nat → Long) (num : Long) (ea : EA) (k : Nat) : M Unit :=
  modifyEAFlagsFirst ea (bitSize ea) k fun v f => (g v (bitIndex ea num), bitFlags v (bitIndex ea num) f)

/-- BTST on such an operand (R322, R323). -/
def bitTest (num : Long) (ea : EA) (k : Nat) : M Unit := do
  let v ← readEA ea (bitSize ea) k
  let f ← getCcr
  setCcr (bitFlags v (bitIndex ea num) f)

/-- The static form with a write (R321). -/
def opBitStatic (g : Long → Nat → Long) (num : Byte) (ea : EA) (s : State) : Step :=
  runInstr (2 + ea.extWords .b) (do
    touchExt 0 1
    bitModify g (num.setWidth 32) ea 1
    return .next) s

/-- The dynamic form with a write; the number is read first (R322). -/
def opBitDynamic (g : Long → Nat → Long) (r : BitVec 3) (ea : EA) (s : State) : Step :=
  runInstr (1 + ea.extWords .b) (do
    bitModify g (← getD r) ea 0
    return .next) s

/-- BTST, static (R323). -/
def opBtstStatic (num : Byte) (ea : EA) (s : State) : Step :=
  runInstr (2 + ea.extWords .b) (do
    touchExt 0 1
    bitTest (num.setWidth 32) ea 1
    return .next) s

/-- BTST, dynamic (R323). -/
def opBtstDynamic (r : BitVec 3) (ea : EA) (s : State) : Step :=
  runInstr (1 + ea.extWords .b) (do
    bitTest (← getD r) ea 0
    return .next) s

/-- TAS: flags of the old byte, then bit 7 stored, in one step (R327). -/
def opTas (dst : EA) (s : State) : Step :=
  runInstr (1 + dst.extWords .b) (do
    modifyEAFlagsFirst dst .b 0 fun v f => (v ||| 0x80#32, logicFlags .b v f)
    return .next) s

/-- NBCD (R343). -/
def opNbcd (dst : EA) (s : State) : Step :=
  runInstr (1 + dst.extWords .b) (do
    modifyEA dst .b 0 fun d f => bcdSub d 0#32 f
    return .next) s

/-! ## Program control (47_program_control.md) -/

/-- The displacement of a branch (R351). -/
def dispValue : Disp → Long
  | .byte d => d.signExtend 32
  | .word d => d.signExtend 32
  | .long d => d

/-- The length of a branch in words (R351). -/
def branchWords (d : Disp) : Nat := 1 + d.exts.length

/-- `target`, with the fetch of the displacement words (R351). -/
def branchTarget (d : Disp) : M Long := do
  touchExt 0 d.exts.length
  return (← getPc) + 2#32 + dispValue d

/-- The address of the instruction after one of `words` words (R11). -/
def nextAddr (words : Nat) : M Long := do
  return (← getPc) + BitVec.ofNat 32 (2 * words)

/-- Bcc (R352). -/
def opBcc (cc : BitVec 4) (d : Disp) (s : State) : Step :=
  runInstr (branchWords d) (do
    if cond cc (← getCcr) then return .goto (← branchTarget d) else return .next) s

/-- BRA (R353). -/
def opBra (d : Disp) (s : State) : Step :=
  runInstr (branchWords d) (do return .goto (← branchTarget d)) s

/-- A displacement decoded from the memory of `s0`, as its words are fetched in `s` (R11, R77). -/
def laterDisp (s0 s : State) (d : Disp) : Disp :=
  match d with
  | .byte d => .byte d
  | .word d => .word (laterWord s0 s 0 d)
  | .long d => .long (laterWord s0 s 0 (d.extractLsb' 16 16) ++ laterWord s0 s 1 (d.extractLsb' 0 16))

/-- BSR (R354): the displacement words are fetched after the push, which may have changed them (R11; log 42). -/
def opBsr (d : Disp) (s : State) : Step :=
  runInstr (branchWords d) (do
    push .l (← nextAddr (branchWords d))
    let d ← M.read fun s1 => laterDisp s s1 d
    return .goto (← branchTarget d)) s

/-- DBcc (R355). -/
def opDbcc (cc : BitVec 4) (r : BitVec 3) (d : Word) (s : State) : Step :=
  runInstr 2 (do
    if cond cc (← getCcr) then return .next
    else do
      let cnt := trunc .w ((← getD r) - 1#32)
      setD r .w cnt
      if cnt = 0xFFFF#32 then return .next
      else return .goto (← branchTarget (.word d))) s

/-- Scc: a write without a read (R356). -/
def opScc (cc : BitVec 4) (dst : EA) (s : State) : Step :=
  runInstr (1 + dst.extWords .b) (do
    let f ← getCcr
    writeEA dst .b 0 (if cond cc f then 0xFF#32 else 0#32)
    return .next) s

/-- JMP (R357). -/
def opJmp (ea : EA) (s : State) : Step :=
  runInstr (1 + ea.extWords .l) (do return .goto (← addrEA ea 0)) s

/-- JSR: the target with the old SP, then the push (R358). -/
def opJsr (ea : EA) (s : State) : Step :=
  runInstr (1 + ea.extWords .l) (do
    let t ← addrEA ea 0
    push .l (← nextAddr (1 + ea.extWords .l))
    return .goto t) s

/-- RTS (R359). -/
def opRts (s : State) : Step :=
  runInstr 1 (do
    let sp ← getSp
    let t ← memRead sp .l
    setSp (sp + 4#32)
    return .goto t) s

/-- RTD (R360). -/
def opRtd (d : Word) (s : State) : Step :=
  runInstr 2 (do
    let sp ← getSp
    let t ← memRead sp .l
    touchExt 0 1
    setSp (sp + 4#32 + d.signExtend 32)
    return .goto t) s

/-- RTR (R361). -/
def opRtr (s : State) : Step :=
  runInstr 1 (do
    let sp ← getSp
    let w ← memRead sp .w
    let t ← memRead (sp + 2#32) .l
    setSp (sp + 6#32)
    setCcr (Ccr.ofWord (w.setWidth 16))
    return .goto t) s

/-- NOP: the fence of R76; it flushes the pipeline (R77, R362). -/
def opNop (s : State) : Step :=
  runInstr 1 (do
    flushPipeline
    return .next) s

end Sys2Proof.Machine
end

