-- ==== Sys2Proof/Machine/Arithmetic.lean ====
section
/-! DEFINITION. Sys2Proof/Machine/Arithmetic.lean: integer add, subtract, compare, clear, negate, extend (spec/41_integer_arithmetic.md). -/

namespace Sys2Proof.Machine

/-- SUBI.B #data,ea (R209). -/
def execSubiB (imm : Byte) (dst : EA) (s : State) : Step :=
  opImmToEa aluSub .b (imm.setWidth 32) dst s

/-- SUBI.W #data,ea (R209). -/
def execSubiW (imm : Word) (dst : EA) (s : State) : Step :=
  opImmToEa aluSub .w (imm.setWidth 32) dst s

/-- SUBI.L #data,ea (R209). -/
def execSubiL (imm : Long) (dst : EA) (s : State) : Step :=
  opImmToEa aluSub .l imm dst s

/-- ADDI.B #data,ea (R204). -/
def execAddiB (imm : Byte) (dst : EA) (s : State) : Step :=
  opImmToEa aluAdd .b (imm.setWidth 32) dst s

/-- ADDI.W #data,ea (R204). -/
def execAddiW (imm : Word) (dst : EA) (s : State) : Step :=
  opImmToEa aluAdd .w (imm.setWidth 32) dst s

/-- ADDI.L #data,ea (R204). -/
def execAddiL (imm : Long) (dst : EA) (s : State) : Step :=
  opImmToEa aluAdd .l imm dst s

/-- CMPI.B #data,ea (R218). -/
def execCmpiB (imm : Byte) (dst : EA) (s : State) : Step :=
  opImmCompare .b (imm.setWidth 32) dst s

/-- CMPI.W #data,ea (R218). -/
def execCmpiW (imm : Word) (dst : EA) (s : State) : Step :=
  opImmCompare .w (imm.setWidth 32) dst s

/-- CMPI.L #data,ea (R218). -/
def execCmpiL (imm : Long) (dst : EA) (s : State) : Step :=
  opImmCompare .l imm dst s

/-- CMP2.B ea,Rn (R221). -/
def execCmp2B (xr : BitVec 4) (rsv : BitVec 11) (ea : EA) (s : State) : Step :=
  opCmp2 .b xr rsv ea s

/-- CMP2.W ea,Rn (R221). -/
def execCmp2W (xr : BitVec 4) (rsv : BitVec 11) (ea : EA) (s : State) : Step :=
  opCmp2 .w xr rsv ea s

/-- CMP2.L ea,Rn (R221). -/
def execCmp2L (xr : BitVec 4) (rsv : BitVec 11) (ea : EA) (s : State) : Step :=
  opCmp2 .l xr rsv ea s

/-- NEGX.B ea (R214). -/
def execNegxB (dst : EA) (s : State) : Step :=
  opSingle aluNegx .b dst s

/-- NEGX.W ea (R214). -/
def execNegxW (dst : EA) (s : State) : Step :=
  opSingle aluNegx .w dst s

/-- NEGX.L ea (R214). -/
def execNegxL (dst : EA) (s : State) : Step :=
  opSingle aluNegx .l dst s

/-- CLR.B ea (R212). -/
def execClrB (dst : EA) (s : State) : Step :=
  opClr .b dst s

/-- CLR.W ea (R212). -/
def execClrW (dst : EA) (s : State) : Step :=
  opClr .w dst s

/-- CLR.L ea (R212). -/
def execClrL (dst : EA) (s : State) : Step :=
  opClr .l dst s

/-- NEG.B ea (R213). -/
def execNegB (dst : EA) (s : State) : Step :=
  opSingle aluNeg .b dst s

/-- NEG.W ea (R213). -/
def execNegW (dst : EA) (s : State) : Step :=
  opSingle aluNeg .w dst s

/-- NEG.L ea (R213). -/
def execNegL (dst : EA) (s : State) : Step :=
  opSingle aluNeg .l dst s

/-- EXT.W Dn (R215). -/
def execExtW (r : BitVec 3) (s : State) : Step :=
  opExt .b .w r s

/-- EXT.L Dn (R215). -/
def execExtL (r : BitVec 3) (s : State) : Step :=
  opExt .w .l r s

/-- EXTB.L Dn (R215). -/
def execExtbL (r : BitVec 3) (s : State) : Step :=
  opExt .b .l r s

/-- ADDQ.B #data,ea (R205). -/
def execAddqB (q : BitVec 3) (dst : EA) (s : State) : Step :=
  opQuick aluAdd (· + ·) .b q dst s

/-- SUBQ.B #data,ea (R210). -/
def execSubqB (q : BitVec 3) (dst : EA) (s : State) : Step :=
  opQuick aluSub (· - ·) .b q dst s

/-- ADDQ.W #data,ea (R205). -/
def execAddqW (q : BitVec 3) (dst : EA) (s : State) : Step :=
  opQuick aluAdd (· + ·) .w q dst s

/-- SUBQ.W #data,ea (R210). -/
def execSubqW (q : BitVec 3) (dst : EA) (s : State) : Step :=
  opQuick aluSub (· - ·) .w q dst s

/-- ADDQ.L #data,ea (R205). -/
def execAddqL (q : BitVec 3) (dst : EA) (s : State) : Step :=
  opQuick aluAdd (· + ·) .l q dst s

/-- SUBQ.L #data,ea (R210). -/
def execSubqL (q : BitVec 3) (dst : EA) (s : State) : Step :=
  opQuick aluSub (· - ·) .l q dst s

/-- SUB.B ea,Dn (R207). -/
def execSubToDnB (r : BitVec 3) (src : EA) (s : State) : Step :=
  opEaToDn aluSub .b r src s

/-- SUB.B Dn,ea (R207). -/
def execSubToEaB (r : BitVec 3) (dst : EA) (s : State) : Step :=
  opDnToEa aluSub .b r dst s

/-- SUB.W ea,Dn (R207). -/
def execSubToDnW (r : BitVec 3) (src : EA) (s : State) : Step :=
  opEaToDn aluSub .w r src s

/-- SUB.W Dn,ea (R207). -/
def execSubToEaW (r : BitVec 3) (dst : EA) (s : State) : Step :=
  opDnToEa aluSub .w r dst s

/-- SUB.L ea,Dn (R207). -/
def execSubToDnL (r : BitVec 3) (src : EA) (s : State) : Step :=
  opEaToDn aluSub .l r src s

/-- SUB.L Dn,ea (R207). -/
def execSubToEaL (r : BitVec 3) (dst : EA) (s : State) : Step :=
  opDnToEa aluSub .l r dst s

/-- SUBA.W ea,An (R208). -/
def execSubaW (r : BitVec 3) (src : EA) (s : State) : Step :=
  opAddressArith (· - ·) .w r src s

/-- SUBA.L ea,An (R208). -/
def execSubaL (r : BitVec 3) (src : EA) (s : State) : Step :=
  opAddressArith (· - ·) .l r src s

/-- SUBX.B (R211). -/
def execSubxB (x : BitVec 3) (mem : Bool) (y : BitVec 3) (s : State) : Step :=
  opExtended (pureAlu (aluSubx .b)) .b x mem y s

/-- SUBX.W (R211). -/
def execSubxW (x : BitVec 3) (mem : Bool) (y : BitVec 3) (s : State) : Step :=
  opExtended (pureAlu (aluSubx .w)) .w x mem y s

/-- SUBX.L (R211). -/
def execSubxL (x : BitVec 3) (mem : Bool) (y : BitVec 3) (s : State) : Step :=
  opExtended (pureAlu (aluSubx .l)) .l x mem y s

/-- CMP.B ea,Dn (R216). -/
def execCmpB (r : BitVec 3) (src : EA) (s : State) : Step :=
  opCmp .b r src s

/-- CMP.W ea,Dn (R216). -/
def execCmpW (r : BitVec 3) (src : EA) (s : State) : Step :=
  opCmp .w r src s

/-- CMP.L ea,Dn (R216). -/
def execCmpL (r : BitVec 3) (src : EA) (s : State) : Step :=
  opCmp .l r src s

/-- CMPA.W ea,An (R217). -/
def execCmpaW (r : BitVec 3) (src : EA) (s : State) : Step :=
  opCmpa .w r src s

/-- CMPA.L ea,An (R217). -/
def execCmpaL (r : BitVec 3) (src : EA) (s : State) : Step :=
  opCmpa .l r src s

/-- CMPM.B (Ay)+,(Ax)+ (R219). -/
def execCmpmB (x : BitVec 3) (y : BitVec 3) (s : State) : Step :=
  opCmpm .b x y s

/-- CMPM.W (Ay)+,(Ax)+ (R219). -/
def execCmpmW (x : BitVec 3) (y : BitVec 3) (s : State) : Step :=
  opCmpm .w x y s

/-- CMPM.L (Ay)+,(Ax)+ (R219). -/
def execCmpmL (x : BitVec 3) (y : BitVec 3) (s : State) : Step :=
  opCmpm .l x y s

/-- ADD.B ea,Dn (R202). -/
def execAddToDnB (r : BitVec 3) (src : EA) (s : State) : Step :=
  opEaToDn aluAdd .b r src s

/-- ADD.B Dn,ea (R202). -/
def execAddToEaB (r : BitVec 3) (dst : EA) (s : State) : Step :=
  opDnToEa aluAdd .b r dst s

/-- ADD.W ea,Dn (R202). -/
def execAddToDnW (r : BitVec 3) (src : EA) (s : State) : Step :=
  opEaToDn aluAdd .w r src s

/-- ADD.W Dn,ea (R202). -/
def execAddToEaW (r : BitVec 3) (dst : EA) (s : State) : Step :=
  opDnToEa aluAdd .w r dst s

/-- ADD.L ea,Dn (R202). -/
def execAddToDnL (r : BitVec 3) (src : EA) (s : State) : Step :=
  opEaToDn aluAdd .l r src s

/-- ADD.L Dn,ea (R202). -/
def execAddToEaL (r : BitVec 3) (dst : EA) (s : State) : Step :=
  opDnToEa aluAdd .l r dst s

/-- ADDA.W ea,An (R203). -/
def execAddaW (r : BitVec 3) (src : EA) (s : State) : Step :=
  opAddressArith (· + ·) .w r src s

/-- ADDA.L ea,An (R203). -/
def execAddaL (r : BitVec 3) (src : EA) (s : State) : Step :=
  opAddressArith (· + ·) .l r src s

/-- ADDX.B (R206). -/
def execAddxB (x : BitVec 3) (mem : Bool) (y : BitVec 3) (s : State) : Step :=
  opExtended (pureAlu (aluAddx .b)) .b x mem y s

/-- ADDX.W (R206). -/
def execAddxW (x : BitVec 3) (mem : Bool) (y : BitVec 3) (s : State) : Step :=
  opExtended (pureAlu (aluAddx .w)) .w x mem y s

/-- ADDX.L (R206). -/
def execAddxL (x : BitVec 3) (mem : Bool) (y : BitVec 3) (s : State) : Step :=
  opExtended (pureAlu (aluAddx .l)) .l x mem y s

end Sys2Proof.Machine
end

