-- ==== Sys2Proof/Machine/Bcd.lean ====
section
/-! DEFINITION. Sys2Proof/Machine/Bcd.lean: packed decimal arithmetic (spec/46_bcd.md). -/

namespace Sys2Proof.Machine

/-- NBCD ea (R343). -/
def execNbcd (dst : EA) (s : State) : Step :=
  opNbcd dst s

/-- SBCD (R342). -/
def execSbcd (x : BitVec 3) (mem : Bool) (y : BitVec 3) (s : State) : Step :=
  opExtended bcdSub .b x mem y s

/-- ABCD (R341). -/
def execAbcd (x : BitVec 3) (mem : Bool) (y : BitVec 3) (s : State) : Step :=
  opExtended bcdAdd .b x mem y s

end Sys2Proof.Machine
end

