-- ==== Sys2Proof/Machine/BitOps.lean ====
section
/-! DEFINITION. Sys2Proof/Machine/BitOps.lean: bit manipulation and TAS (spec/45_bit_manipulation.md). -/

namespace Sys2Proof.Machine

/-- BTST #data,ea (R323). -/
def execBtst (num : Byte) (ea : EA) (s : State) : Step :=
  opBtstStatic num ea s

/-- BTST Dn,ea (R323). -/
def execBtstDn (r : BitVec 3) (ea : EA) (s : State) : Step :=
  opBtstDynamic r ea s

/-- BCHG #data,ea (R324). -/
def execBchg (num : Byte) (ea : EA) (s : State) : Step :=
  opBitStatic bitChange num ea s

/-- BCHG Dn,ea (R324). -/
def execBchgDn (r : BitVec 3) (ea : EA) (s : State) : Step :=
  opBitDynamic bitChange r ea s

/-- BCLR #data,ea (R325). -/
def execBclr (num : Byte) (ea : EA) (s : State) : Step :=
  opBitStatic bitClear num ea s

/-- BCLR Dn,ea (R325). -/
def execBclrDn (r : BitVec 3) (ea : EA) (s : State) : Step :=
  opBitDynamic bitClear r ea s

/-- BSET #data,ea (R326). -/
def execBset (num : Byte) (ea : EA) (s : State) : Step :=
  opBitStatic bitSet num ea s

/-- BSET Dn,ea (R326). -/
def execBsetDn (r : BitVec 3) (ea : EA) (s : State) : Step :=
  opBitDynamic bitSet r ea s

/-- TAS ea (R327). -/
def execTas (dst : EA) (s : State) : Step :=
  opTas dst s

end Sys2Proof.Machine
end

