-- ==== Sys2Proof/Machine/DataMovement.lean ====
section
/-! DEFINITION. Sys2Proof/Machine/DataMovement.lean: the data movement instructions (spec/40_data_movement.md). -/

namespace Sys2Proof.Machine

/-- MOVEP.W (d16,Ay),Dx (R171). -/
def execMovepLoadW (x : BitVec 3) (y : BitVec 3) (d : Word) (s : State) : Step :=
  opMovepLoadW x y d s

/-- MOVEP.L (d16,Ay),Dx (R171). -/
def execMovepLoadL (x : BitVec 3) (y : BitVec 3) (d : Word) (s : State) : Step :=
  opMovepLoadL x y d s

/-- MOVEP.W Dx,(d16,Ay) (R171). -/
def execMovepStoreW (x : BitVec 3) (y : BitVec 3) (d : Word) (s : State) : Step :=
  opMovepStoreW x y d s

/-- MOVEP.L Dx,(d16,Ay) (R171). -/
def execMovepStoreL (x : BitVec 3) (y : BitVec 3) (d : Word) (s : State) : Step :=
  opMovepStoreL x y d s

/-- MOVE.B ea,ea (R162). -/
def execMoveB (src : EA) (dst : EA) (s : State) : Step :=
  opMove .b src dst s

/-- MOVE.W ea,ea (R162). -/
def execMoveW (src : EA) (dst : EA) (s : State) : Step :=
  opMove .w src dst s

/-- MOVEA.W ea,An (R163). -/
def execMoveaW (src : EA) (r : BitVec 3) (s : State) : Step :=
  opMovea .w src r s

/-- MOVE.L ea,ea (R162). -/
def execMoveL (src : EA) (dst : EA) (s : State) : Step :=
  opMove .l src dst s

/-- MOVEA.L ea,An (R163). -/
def execMoveaL (src : EA) (r : BitVec 3) (s : State) : Step :=
  opMovea .l src r s

/-- LINK.L An,#disp (R175). -/
def execLinkL (r : BitVec 3) (d : Long) (s : State) : Step :=
  opLink 2 r d s

/-- PEA ea (R174). -/
def execPea (ea : EA) (s : State) : Step :=
  opPea ea s

/-- MOVEM.W list,ea (R166). -/
def execMovemStoreW (mask : Word) (ea : EA) (s : State) : Step :=
  opMovemStore .w mask ea s

/-- MOVEM.W ea,list (R169). -/
def execMovemLoadW (mask : Word) (ea : EA) (s : State) : Step :=
  opMovemLoad .w mask ea s

/-- MOVEM.L list,ea (R166). -/
def execMovemStoreL (mask : Word) (ea : EA) (s : State) : Step :=
  opMovemStore .l mask ea s

/-- MOVEM.L ea,list (R169). -/
def execMovemLoadL (mask : Word) (ea : EA) (s : State) : Step :=
  opMovemLoad .l mask ea s

/-- LINK.W An,#disp (R175). -/
def execLinkW (r : BitVec 3) (d : Word) (s : State) : Step :=
  opLink 1 r (d.signExtend 32) s

/-- UNLK An (R176). -/
def execUnlk (r : BitVec 3) (s : State) : Step :=
  opUnlk r s

/-- LEA ea,An (R173). -/
def execLea (r : BitVec 3) (ea : EA) (s : State) : Step :=
  opLea r ea s

/-- MOVEQ #data,Dn (R164). -/
def execMoveq (r : BitVec 3) (d : Byte) (s : State) : Step :=
  opMoveq r d s

/-- EXG Dx,Dy (R172). -/
def execExgDD (x : BitVec 3) (y : BitVec 3) (s : State) : Step :=
  opExg (0#1 ++ x) (0#1 ++ y) s

/-- EXG Ax,Ay (R172). -/
def execExgAA (x : BitVec 3) (y : BitVec 3) (s : State) : Step :=
  opExg (1#1 ++ x) (1#1 ++ y) s

/-- EXG Dx,Ay (R172). -/
def execExgDA (x : BitVec 3) (y : BitVec 3) (s : State) : Step :=
  opExg (0#1 ++ x) (1#1 ++ y) s

end Sys2Proof.Machine
end

