-- ==== Sys2Proof/Machine/Logic.lean ====
section
/-! DEFINITION. Sys2Proof/Machine/Logic.lean: logic and TST (spec/43_logic.md). -/

namespace Sys2Proof.Machine

/-- ORI.B #data,ea (R275). -/
def execOriB (imm : Byte) (dst : EA) (s : State) : Step :=
  opImmToEa aluOr .b (imm.setWidth 32) dst s

/-- ORI.W #data,ea (R275). -/
def execOriW (imm : Word) (dst : EA) (s : State) : Step :=
  opImmToEa aluOr .w (imm.setWidth 32) dst s

/-- ORI.L #data,ea (R275). -/
def execOriL (imm : Long) (dst : EA) (s : State) : Step :=
  opImmToEa aluOr .l imm dst s

/-- ANDI.B #data,ea (R273). -/
def execAndiB (imm : Byte) (dst : EA) (s : State) : Step :=
  opImmToEa aluAnd .b (imm.setWidth 32) dst s

/-- ANDI.W #data,ea (R273). -/
def execAndiW (imm : Word) (dst : EA) (s : State) : Step :=
  opImmToEa aluAnd .w (imm.setWidth 32) dst s

/-- ANDI.L #data,ea (R273). -/
def execAndiL (imm : Long) (dst : EA) (s : State) : Step :=
  opImmToEa aluAnd .l imm dst s

/-- EORI.B #data,ea (R277). -/
def execEoriB (imm : Byte) (dst : EA) (s : State) : Step :=
  opImmToEa aluEor .b (imm.setWidth 32) dst s

/-- EORI.W #data,ea (R277). -/
def execEoriW (imm : Word) (dst : EA) (s : State) : Step :=
  opImmToEa aluEor .w (imm.setWidth 32) dst s

/-- EORI.L #data,ea (R277). -/
def execEoriL (imm : Long) (dst : EA) (s : State) : Step :=
  opImmToEa aluEor .l imm dst s

/-- NOT.B ea (R278). -/
def execNotB (dst : EA) (s : State) : Step :=
  opSingle aluNot .b dst s

/-- NOT.W ea (R278). -/
def execNotW (dst : EA) (s : State) : Step :=
  opSingle aluNot .w dst s

/-- NOT.L ea (R278). -/
def execNotL (dst : EA) (s : State) : Step :=
  opSingle aluNot .l dst s

/-- TST.B ea (R279). -/
def execTstB (src : EA) (s : State) : Step :=
  opTst .b src s

/-- TST.W ea (R279). -/
def execTstW (src : EA) (s : State) : Step :=
  opTst .w src s

/-- TST.L ea (R279). -/
def execTstL (src : EA) (s : State) : Step :=
  opTst .l src s

/-- OR.B ea,Dn (R274). -/
def execOrToDnB (r : BitVec 3) (src : EA) (s : State) : Step :=
  opEaToDn aluOr .b r src s

/-- OR.B Dn,ea (R274). -/
def execOrToEaB (r : BitVec 3) (dst : EA) (s : State) : Step :=
  opDnToEa aluOr .b r dst s

/-- OR.W ea,Dn (R274). -/
def execOrToDnW (r : BitVec 3) (src : EA) (s : State) : Step :=
  opEaToDn aluOr .w r src s

/-- OR.W Dn,ea (R274). -/
def execOrToEaW (r : BitVec 3) (dst : EA) (s : State) : Step :=
  opDnToEa aluOr .w r dst s

/-- OR.L ea,Dn (R274). -/
def execOrToDnL (r : BitVec 3) (src : EA) (s : State) : Step :=
  opEaToDn aluOr .l r src s

/-- OR.L Dn,ea (R274). -/
def execOrToEaL (r : BitVec 3) (dst : EA) (s : State) : Step :=
  opDnToEa aluOr .l r dst s

/-- EOR.B Dn,ea (R276). -/
def execEorB (r : BitVec 3) (dst : EA) (s : State) : Step :=
  opDnToEa aluEor .b r dst s

/-- EOR.W Dn,ea (R276). -/
def execEorW (r : BitVec 3) (dst : EA) (s : State) : Step :=
  opDnToEa aluEor .w r dst s

/-- EOR.L Dn,ea (R276). -/
def execEorL (r : BitVec 3) (dst : EA) (s : State) : Step :=
  opDnToEa aluEor .l r dst s

/-- AND.B ea,Dn (R272). -/
def execAndToDnB (r : BitVec 3) (src : EA) (s : State) : Step :=
  opEaToDn aluAnd .b r src s

/-- AND.B Dn,ea (R272). -/
def execAndToEaB (r : BitVec 3) (dst : EA) (s : State) : Step :=
  opDnToEa aluAnd .b r dst s

/-- AND.W ea,Dn (R272). -/
def execAndToDnW (r : BitVec 3) (src : EA) (s : State) : Step :=
  opEaToDn aluAnd .w r src s

/-- AND.W Dn,ea (R272). -/
def execAndToEaW (r : BitVec 3) (dst : EA) (s : State) : Step :=
  opDnToEa aluAnd .w r dst s

/-- AND.L ea,Dn (R272). -/
def execAndToDnL (r : BitVec 3) (src : EA) (s : State) : Step :=
  opEaToDn aluAnd .l r src s

/-- AND.L Dn,ea (R272). -/
def execAndToEaL (r : BitVec 3) (dst : EA) (s : State) : Step :=
  opDnToEa aluAnd .l r dst s

end Sys2Proof.Machine
end

