-- ==== Sys2Proof/Machine/MulDiv.lean ====
section
/-! DEFINITION. Sys2Proof/Machine/MulDiv.lean: multiply and divide (spec/42_multiply_divide.md). -/

namespace Sys2Proof.Machine

/-- MULU.L ea,... (R255). -/
def execMuluL (r15 : BitVec 1) (l : BitVec 3) (quad : Bool) (rsv : BitVec 7) (h : BitVec 3) (src : EA) (s : State) : Step :=
  opMulL false r15 l quad rsv h src s

/-- MULS.L ea,... (R254). -/
def execMulsL (r15 : BitVec 1) (l : BitVec 3) (quad : Bool) (rsv : BitVec 7) (h : BitVec 3) (src : EA) (s : State) : Step :=
  opMulL true r15 l quad rsv h src s

/-- DIVU.L and DIVUL.L ea,... (R261). -/
def execDivuL (r15 : BitVec 1) (l : BitVec 3) (quad : Bool) (rsv : BitVec 7) (h : BitVec 3) (src : EA) (s : State) : Step :=
  opDivL false r15 l quad rsv h src s

/-- DIVS.L and DIVSL.L ea,... (R260). -/
def execDivsL (r15 : BitVec 1) (l : BitVec 3) (quad : Bool) (rsv : BitVec 7) (h : BitVec 3) (src : EA) (s : State) : Step :=
  opDivL true r15 l quad rsv h src s

/-- DIVU.W ea,Dn (R258). -/
def execDivuW (r : BitVec 3) (src : EA) (s : State) : Step :=
  opDivW false r src s

/-- DIVS.W ea,Dn (R257). -/
def execDivsW (r : BitVec 3) (src : EA) (s : State) : Step :=
  opDivW true r src s

/-- MULU.W ea,Dn (R253). -/
def execMuluW (r : BitVec 3) (src : EA) (s : State) : Step :=
  opMulW false r src s

/-- MULS.W ea,Dn (R252). -/
def execMulsW (r : BitVec 3) (src : EA) (s : State) : Step :=
  opMulW true r src s

end Sys2Proof.Machine
end

