-- ==== Sys2Proof/Machine/ProgramControl.lean ====
section
/-! DEFINITION. Sys2Proof/Machine/ProgramControl.lean: branches, jumps, returns, NOP (spec/47_program_control.md). -/

namespace Sys2Proof.Machine

/-- NOP (R362). -/
def execNop (s : State) : Step :=
  opNop s

/-- RTD #disp (R360). -/
def execRtd (d : Word) (s : State) : Step :=
  opRtd d s

/-- RTS (R359). -/
def execRts (s : State) : Step :=
  opRts s

/-- RTR (R361). -/
def execRtr (s : State) : Step :=
  opRtr s

/-- JSR ea (R358). -/
def execJsr (ea : EA) (s : State) : Step :=
  opJsr ea s

/-- JMP ea (R357). -/
def execJmp (ea : EA) (s : State) : Step :=
  opJmp ea s

/-- Scc ea (R356). -/
def execScc (cc : BitVec 4) (dst : EA) (s : State) : Step :=
  opScc cc dst s

/-- DBcc Dn,label (R355). -/
def execDbcc (cc : BitVec 4) (r : BitVec 3) (d : Word) (s : State) : Step :=
  opDbcc cc r d s

/-- BRA label (R353). -/
def execBra (d : Disp) (s : State) : Step :=
  opBra d s

/-- BSR label (R354). -/
def execBsr (d : Disp) (s : State) : Step :=
  opBsr d s

/-- BHI label (R352). -/
def execBhi (d : Disp) (s : State) : Step :=
  opBcc 2#4 d s

/-- BLS label (R352). -/
def execBls (d : Disp) (s : State) : Step :=
  opBcc 3#4 d s

/-- BCC label (R352). -/
def execBcc (d : Disp) (s : State) : Step :=
  opBcc 4#4 d s

/-- BCS label (R352). -/
def execBcs (d : Disp) (s : State) : Step :=
  opBcc 5#4 d s

/-- BNE label (R352). -/
def execBne (d : Disp) (s : State) : Step :=
  opBcc 6#4 d s

/-- BEQ label (R352). -/
def execBeq (d : Disp) (s : State) : Step :=
  opBcc 7#4 d s

/-- BVC label (R352). -/
def execBvc (d : Disp) (s : State) : Step :=
  opBcc 8#4 d s

/-- BVS label (R352). -/
def execBvs (d : Disp) (s : State) : Step :=
  opBcc 9#4 d s

/-- BPL label (R352). -/
def execBpl (d : Disp) (s : State) : Step :=
  opBcc 10#4 d s

/-- BMI label (R352). -/
def execBmi (d : Disp) (s : State) : Step :=
  opBcc 11#4 d s

/-- BGE label (R352). -/
def execBge (d : Disp) (s : State) : Step :=
  opBcc 12#4 d s

/-- BLT label (R352). -/
def execBlt (d : Disp) (s : State) : Step :=
  opBcc 13#4 d s

/-- BGT label (R352). -/
def execBgt (d : Disp) (s : State) : Step :=
  opBcc 14#4 d s

/-- BLE label (R352). -/
def execBle (d : Disp) (s : State) : Step :=
  opBcc 15#4 d s

end Sys2Proof.Machine
end

