-- ==== Sys2Proof/Machine/Refused.lean ====
section
/-! DEFINITION. Sys2Proof/Machine/Refused.lean: the class-Q operation words Q1 to Q7, which the spec refuses (spec/93_implementation_defined.md). -/

namespace Sys2Proof.Machine

/-- the MOVE to SR slot (Q7) (R399). -/
def execRefusedMoveToSr (_m : BitVec 3) (_q : BitVec 3) (s : State) : Step :=
  refuseWith .moveToSr s

/-- MOVEM.W (PC-relative),list (Q5) (R165). -/
def execRefusedMovemPcW (_e : BitVec 1) (s : State) : Step :=
  refuseWith .movemPcRelative s

/-- MOVEM.L (PC-relative),list (Q5) (R165). -/
def execRefusedMovemPcL (_e : BitVec 1) (s : State) : Step :=
  refuseWith .movemPcRelative s

/-- CHK.W #imm,Dn (Q3) (R422). -/
def execRefusedChkImmW (_r : BitVec 3) (s : State) : Step :=
  refuseWith .chkImmediate s

/-- CHK.L #imm,Dn (Q3) (R422). -/
def execRefusedChkImmL (_r : BitVec 3) (s : State) : Step :=
  refuseWith .chkImmediate s

/-- OR.B (PC-relative),Dn (Q1) (R274). -/
def execRefusedOrPcB (_r : BitVec 3) (_e : BitVec 1) (s : State) : Step :=
  refuseWith .orPcRelative s

/-- OR.B #imm,Dn (Q2) (R274). -/
def execRefusedOrImmB (_r : BitVec 3) (s : State) : Step :=
  refuseWith .orImmediate s

/-- OR.W (PC-relative),Dn (Q1) (R274). -/
def execRefusedOrPcW (_r : BitVec 3) (_e : BitVec 1) (s : State) : Step :=
  refuseWith .orPcRelative s

/-- OR.W #imm,Dn (Q2) (R274). -/
def execRefusedOrImmW (_r : BitVec 3) (s : State) : Step :=
  refuseWith .orImmediate s

/-- OR.L (PC-relative),Dn (Q1) (R274). -/
def execRefusedOrPcL (_r : BitVec 3) (_e : BitVec 1) (s : State) : Step :=
  refuseWith .orPcRelative s

/-- OR.L #imm,Dn (Q2) (R274). -/
def execRefusedOrImmL (_r : BitVec 3) (s : State) : Step :=
  refuseWith .orImmediate s

/-- OR.W Dn,Dm in the Dn,ea direction (Q6) (R274). -/
def execRefusedOrRegW (_r : BitVec 3) (_y : BitVec 3) (s : State) : Step :=
  refuseWith .orRegisterToRegister s

/-- OR.L Dn,Dm in the Dn,ea direction (Q6) (R274). -/
def execRefusedOrRegL (_r : BitVec 3) (_y : BitVec 3) (s : State) : Step :=
  refuseWith .orRegisterToRegister s

/-- DIVS.W #imm,Dn (Q4) (R257). -/
def execRefusedDivsImm (_r : BitVec 3) (s : State) : Step :=
  refuseWith .divsImmediate s

end Sys2Proof.Machine
end

