-- ==== Sys2Proof/Machine/Shift.lean ====
section
/-! DEFINITION. Sys2Proof/Machine/Shift.lean: shift, rotate and SWAP (spec/44_shift_rotate.md). -/

namespace Sys2Proof.Machine

/-- SWAP Dn (R304). -/
def execSwap (r : BitVec 3) (s : State) : Step :=
  opSwap r s

/-- ASL.B (register) (R295). -/
def execAslB (k : BitVec 3) (i : Bool) (r : BitVec 3) (s : State) : Step :=
  opShiftReg .asl .b k i r s

/-- ASL.W (register) (R295). -/
def execAslW (k : BitVec 3) (i : Bool) (r : BitVec 3) (s : State) : Step :=
  opShiftReg .asl .w k i r s

/-- ASL.L (register) (R295). -/
def execAslL (k : BitVec 3) (i : Bool) (r : BitVec 3) (s : State) : Step :=
  opShiftReg .asl .l k i r s

/-- ASL.W ea (memory) (R295). -/
def execAslMem (dst : EA) (s : State) : Step :=
  opShiftMem .asl dst s

/-- ASR.B (register) (R296). -/
def execAsrB (k : BitVec 3) (i : Bool) (r : BitVec 3) (s : State) : Step :=
  opShiftReg .asr .b k i r s

/-- ASR.W (register) (R296). -/
def execAsrW (k : BitVec 3) (i : Bool) (r : BitVec 3) (s : State) : Step :=
  opShiftReg .asr .w k i r s

/-- ASR.L (register) (R296). -/
def execAsrL (k : BitVec 3) (i : Bool) (r : BitVec 3) (s : State) : Step :=
  opShiftReg .asr .l k i r s

/-- ASR.W ea (memory) (R296). -/
def execAsrMem (dst : EA) (s : State) : Step :=
  opShiftMem .asr dst s

/-- LSL.B (register) (R297). -/
def execLslB (k : BitVec 3) (i : Bool) (r : BitVec 3) (s : State) : Step :=
  opShiftReg .lsl .b k i r s

/-- LSL.W (register) (R297). -/
def execLslW (k : BitVec 3) (i : Bool) (r : BitVec 3) (s : State) : Step :=
  opShiftReg .lsl .w k i r s

/-- LSL.L (register) (R297). -/
def execLslL (k : BitVec 3) (i : Bool) (r : BitVec 3) (s : State) : Step :=
  opShiftReg .lsl .l k i r s

/-- LSL.W ea (memory) (R297). -/
def execLslMem (dst : EA) (s : State) : Step :=
  opShiftMem .lsl dst s

/-- LSR.B (register) (R298). -/
def execLsrB (k : BitVec 3) (i : Bool) (r : BitVec 3) (s : State) : Step :=
  opShiftReg .lsr .b k i r s

/-- LSR.W (register) (R298). -/
def execLsrW (k : BitVec 3) (i : Bool) (r : BitVec 3) (s : State) : Step :=
  opShiftReg .lsr .w k i r s

/-- LSR.L (register) (R298). -/
def execLsrL (k : BitVec 3) (i : Bool) (r : BitVec 3) (s : State) : Step :=
  opShiftReg .lsr .l k i r s

/-- LSR.W ea (memory) (R298). -/
def execLsrMem (dst : EA) (s : State) : Step :=
  opShiftMem .lsr dst s

/-- ROXL.B (register) (R301). -/
def execRoxlB (k : BitVec 3) (i : Bool) (r : BitVec 3) (s : State) : Step :=
  opShiftReg .roxl .b k i r s

/-- ROXL.W (register) (R301). -/
def execRoxlW (k : BitVec 3) (i : Bool) (r : BitVec 3) (s : State) : Step :=
  opShiftReg .roxl .w k i r s

/-- ROXL.L (register) (R301). -/
def execRoxlL (k : BitVec 3) (i : Bool) (r : BitVec 3) (s : State) : Step :=
  opShiftReg .roxl .l k i r s

/-- ROXL.W ea (memory) (R301). -/
def execRoxlMem (dst : EA) (s : State) : Step :=
  opShiftMem .roxl dst s

/-- ROXR.B (register) (R302). -/
def execRoxrB (k : BitVec 3) (i : Bool) (r : BitVec 3) (s : State) : Step :=
  opShiftReg .roxr .b k i r s

/-- ROXR.W (register) (R302). -/
def execRoxrW (k : BitVec 3) (i : Bool) (r : BitVec 3) (s : State) : Step :=
  opShiftReg .roxr .w k i r s

/-- ROXR.L (register) (R302). -/
def execRoxrL (k : BitVec 3) (i : Bool) (r : BitVec 3) (s : State) : Step :=
  opShiftReg .roxr .l k i r s

/-- ROXR.W ea (memory) (R302). -/
def execRoxrMem (dst : EA) (s : State) : Step :=
  opShiftMem .roxr dst s

/-- ROL.B (register) (R299). -/
def execRolB (k : BitVec 3) (i : Bool) (r : BitVec 3) (s : State) : Step :=
  opShiftReg .rol .b k i r s

/-- ROL.W (register) (R299). -/
def execRolW (k : BitVec 3) (i : Bool) (r : BitVec 3) (s : State) : Step :=
  opShiftReg .rol .w k i r s

/-- ROL.L (register) (R299). -/
def execRolL (k : BitVec 3) (i : Bool) (r : BitVec 3) (s : State) : Step :=
  opShiftReg .rol .l k i r s

/-- ROL.W ea (memory) (R299). -/
def execRolMem (dst : EA) (s : State) : Step :=
  opShiftMem .rol dst s

/-- ROR.B (register) (R300). -/
def execRorB (k : BitVec 3) (i : Bool) (r : BitVec 3) (s : State) : Step :=
  opShiftReg .ror .b k i r s

/-- ROR.W (register) (R300). -/
def execRorW (k : BitVec 3) (i : Bool) (r : BitVec 3) (s : State) : Step :=
  opShiftReg .ror .w k i r s

/-- ROR.L (register) (R300). -/
def execRorL (k : BitVec 3) (i : Bool) (r : BitVec 3) (s : State) : Step :=
  opShiftReg .ror .l k i r s

/-- ROR.W ea (memory) (R300). -/
def execRorMem (dst : EA) (s : State) : Step :=
  opShiftMem .ror dst s

end Sys2Proof.Machine
end

