-- ==== Sys2Proof/Machine/SystemShapes.lean ====
section
/-! DEFINITION. Sys2Proof/Machine/SystemShapes.lean: the shapes of the system-control and trapping instructions
(spec/48_system_control.md, 49_trapping.md). Each flushes the pipeline (R380), after its own words are fetched and
before it stores anything: its own stores stay stale (log 17). -/

namespace Sys2Proof.Machine

/-- SR replaced by an instruction (R28); under TRACE_POLICY = refuse a value with a trace bit set is refused
(R475, U15; log 25). -/
def writeSr (v : Word) : M Unit := do
  M.guard fun s =>
    if s.params.tracePolicy = .refuse ∧ srTraced (srUnpack s.params.srLayout v) then some (.refuse .traceBits) else none
  setSr v

/-! ## CCR and SR (R381–R389) -/

/-- `op #imm,CCR` (R381–R383): bits 4 to 0 of the status register. -/
def opImmToCcr (g : Word → Word → Word) (imm : Byte) (s : State) : Step :=
  runInstr 2 (do
    touchExt 0 1
    flushPipeline
    let f ← getCcr
    setCcr (Ccr.ofWord (g (f.bits.setWidth 16) (imm.setWidth 16)))
    return .next) s

/-- `op #imm,SR` (R384–R386). -/
def opImmToSr (g : Word → Word → Word) (imm : Word) (s : State) : Step :=
  runInstr 2 (do
    requireSupervisor
    touchExt 0 1
    flushPipeline
    let sr ← M.read State.srWord
    writeSr (g sr imm)
    return .srWritten) s

/-- A word written to an effective address with the flush between its fetch and its store. -/
def writeWordFlushing (dst : EA) (v : Word) : M Unit := do
  let p ← locate dst .w 0
  flushPipeline
  writeLoc .w (v.setWidth 32) p.loc
  commit p

/-- MOVE from CCR: a write without a read (R387). -/
def opMoveFromCcr (dst : EA) (s : State) : Step :=
  runInstr (1 + dst.extWords .w) (do
    let f ← getCcr
    writeWordFlushing dst (f.bits.setWidth 16)
    return .next) s

/-- MOVE to CCR (R388). -/
def opMoveToCcr (src : EA) (s : State) : Step :=
  runInstr (1 + src.extWords .w) (do
    let v ← readEA src .w 0
    flushPipeline
    setCcr (Ccr.ofWord (v.setWidth 16))
    return .next) s

/-- MOVE from SR (R389). -/
def opMoveFromSr (dst : EA) (s : State) : Step :=
  runInstr (1 + dst.extWords .w) (do
    requireSupervisor
    let sr ← M.read State.srWord
    writeWordFlushing dst sr
    return .next) s

/-! ## Control registers (R390, R393) -/

/-- A register MOVEC can name. -/
inductive CtrlReg where
  | sfc | dfc | usp | vbr
  /-- an extended code of MOVEC_EXT_CODES (R46) -/
  | ext (code : BitVec 12)
  deriving DecidableEq, Repr

/-- `lookup` of R390: an extended code only for MC0, none for any other code. -/
def lookupCtrl (s : State) (code : BitVec 12) : Option CtrlReg :=
  if code = 0x000#12 then some .sfc
  else if code = 0x001#12 then some .dfc
  else if code = 0x800#12 then some .usp
  else if code = 0x801#12 then some .vbr
  else if s.cur = 0 ∧ (s.extRegs.any fun e => e.1 == code) then some (.ext code)
  else none

/-- The value of an extended register (R44, R46). -/
def extValue (s : State) (code : BitVec 12) : Long :=
  match s.extRegs.find? (fun e => e.1 == code) with
  | some (_, .plain v) => v
  | some (_, .fcr) => BitVec.ofNat 32 s.fcr.val
  | none => 0#32

/-- The value MOVEC reads, zero-extended (R390). -/
def ctrlValue (s : State) (c : CtrlReg) : Long :=
  match c with
  | .sfc => s.ctx.sfc
  | .dfc => s.ctx.dfc
  | .usp => s.ctx.usp
  | .vbr => s.ctx.vbr
  | .ext code => extValue s code

/-- The extended registers with one written; the first entry of a code counts. -/
def writeExt : List (BitVec 12 × ExtReg) → BitVec 12 → Long → List (BitVec 12 × ExtReg)
  | [], _, _ => []
  | e :: l, code, v => if e.1 = code then (code, .plain v) :: l else e :: writeExt l code v

/-- What FCR, which holds 0 to 4, keeps of a value written to it: three bits are implemented; the spec does not say what
a value above 4 leaves, so FCR is then a free context number (R44, R390; log 21). -/
def fcrValue (v : Long) : M CtxId :=
  if h : (v.setWidth 3).toNat < 5 then pure ⟨(v.setWidth 3).toNat, h⟩ else drawCtxId

/-- A control register replaced, truncated to its implemented bits (R32, R44, R390). -/
def writeCtrl (c : CtrlReg) (v : Long) : M Unit :=
  match c with
  | .sfc => M.update fun s => s.withCtx { s.ctx with sfc := fcMask s.params v }
  | .dfc => M.update fun s => s.withCtx { s.ctx with dfc := fcMask s.params v }
  | .usp => M.update fun s => s.withCtx { s.ctx with usp := v }
  | .vbr => M.update fun s => s.withCtx { s.ctx with vbr := v }
  | .ext code => do
    match ← M.read fun s => s.extRegs.find? (fun e => e.1 == code) with
    | some (_, .fcr) => do
      let c ← fcrValue v
      M.update fun s => { s with fcr := c }
    | _ => M.update fun s => { s with extRegs := writeExt s.extRegs code v }

/-- The privilege check, then the code word, then its lookup (R380, R390). -/
def movecReg (code : BitVec 12) : M CtrlReg := do
  requireSupervisor
  touchExt 0 1
  flushPipeline
  match ← M.read fun s => lookupCtrl s code with
  | some c => pure c
  | none => M.raise .illegal

/-- MOVEC Rc,Rn (R390). -/
def opMovecFromCr (xr : BitVec 4) (code : BitVec 12) (s : State) : Step :=
  runInstr 2 (do
    let c ← movecReg code
    setR xr (← M.read fun s => ctrlValue s c)
    return .next) s

/-- MOVEC Rn,Rc (R390). -/
def opMovecToCr (xr : BitVec 4) (code : BitVec 12) (s : State) : Step :=
  runInstr 2 (do
    let c ← movecReg code
    writeCtrl c (← getR xr)
    return .next) s

/-- MOVE An,USP (R393). -/
def opMoveToUsp (r : BitVec 3) (s : State) : Step :=
  runInstr 1 (do
    requireSupervisor
    flushPipeline
    let v ← getA r
    M.update fun s => s.withCtx { s.ctx with usp := v }
    return .next) s

/-- MOVE USP,An (R393). -/
def opMoveFromUsp (r : BitVec 3) (s : State) : Step :=
  runInstr 1 (do
    requireSupervisor
    flushPipeline
    setA r (← M.read fun s => s.ctx.usp)
    return .next) s

/-! ## MOVES (R391, R392) -/

/-- The register of a MOVES is the one its `(An)+` or `-(An)` moves (R392). -/
def movesItself (xr : BitVec 4) (ea : EA) : Bool :=
  match ea with
  | .postinc n => xr == 1#1 ++ n
  | .predec n => xr == 1#1 ++ n
  | _ => false

/-- The value MOVES stores: the register, or, when its own mode updates it, the value before or after the update,
whichever the draw says (R392, U7). -/
def movesValue (xr : BitVec 4) (ea : EA) (p : Place) : M Long := do
  let v ← getR xr
  if movesItself xr ea then
    let after ← drawBit
    match p.upd with
    | some (_, u) => pure (if after then u else v)
    | none => pure v
  else pure v

/-- MOVES (R391): no flags change. -/
def opMoves (sz : Size) (xr : BitVec 4) (toMem : Bool) (rsv : BitVec 11) (ea : EA) (s : State) : Step :=
  runInstr (2 + ea.extWords sz) (do
    requireSupervisor
    specialWord (rsv == 0#11)
    let p ← locate ea sz 1
    flushPipeline
    if toMem then do
      let v ← movesValue xr ea p
      writeLoc sz v p.loc
      commit p
    else do
      let v ← readLoc sz p.loc
      commit p
      if xr.getLsbD 3 then setR xr (sext sz v) else setD (xr.setWidth 3) sz v
    return .next) s

/-! ## RTE, STOP, LPSTOP, SLEEP, RESET (R394–R398) -/

/-- RTE (R394, R461): an unsupported format changes nothing; SP moves before SR does. -/
def opRte (s : State) : Step :=
  runInstr 1 (do
    requireSupervisor
    flushPipeline
    let sp ← getSp
    let sr ← memRead sp .w
    let t ← memRead (sp + 2#32) .l
    let fw ← memRead (sp + 6#32) .w
    match frameSize fw with
    | none => M.raise .formatError
    | some size => do
      setSp (sp + size)
      writeSr (sr.setWidth 16)
      return .goto t) s

/-- The instruction is traced under TRACE_POLICY = cpu32, so that STOP does not stop (R475). -/
def tracedStop (s : State) : Bool :=
  decide (s.params.tracePolicy = .cpu32) && srTraced s.ctx.sr

/-- Every READY context NOT_READY and the CPU stopped (R395). -/
def State.stopAll (s : State) : State :=
  { s with
    ctxs := s.ctxs.map fun c => if c.run = .ready then { c with run := .notReady } else c
    cpu := .stopped }

/-- The running context NOT_READY (R397). -/
def sleepCurrent : M Unit := M.update fun s => s.withCtx { s.ctx with run := .notReady }

/-- STOP (R395). -/
def opStop (imm : Word) (s : State) : Step :=
  runInstr 2 (do
    requireSupervisor
    touchExt 0 1
    flushPipeline
    let traced ← M.read tracedStop
    writeSr imm
    if traced then return .srWritten
    else do
      if s.cur = 0 then M.update State.stopAll else sleepCurrent
      return .srSleep) s

/-- LPSTOP: its second word is part of the operation code and is fetched before the privilege check (R380, R396). -/
def opLpstop (imm : Word) (s : State) : Step :=
  runInstr 3 (do
    touchExt 0 1
    requireSupervisor
    touchExt 1 1
    flushPipeline
    writeSr imm
    if s.cur = 0 then do
      M.update fun s => { s with cpu := .lpStopped }
      return .halt
    else do
      sleepCurrent
      return .srSleep) s

/-- SLEEP (R397). -/
def opSleep (s : State) : Step :=
  runInstr 1 (do
    requireSupervisor
    flushPipeline
    sleepCurrent
    return .sleep) s

/-- RESET: a privileged NOP (R398). -/
def opReset (s : State) : Step :=
  runInstr 1 (do
    requireSupervisor
    flushPipeline
    return .next) s

/-! ## Trapping instructions (R421–R430) -/

/-- ILLEGAL, TRAP, BGND: the exception, always (R421, R424, R429). -/
def opTrapAlways (e : Exc) (s : State) : Step := runInstr 1 (M.raise e) s

/-- CHK (R422): Z, V and C are free, and N when the value is within bounds (U4). -/
def opChk (sz : Size) (r : BitVec 3) (src : EA) (s : State) : Step :=
  runInstr (1 + src.extWords sz) (do
    let ub ← readEA src sz 0
    flushPipeline
    let x ← getD r
    let f ← getCcr
    let z ← drawBit
    let v ← drawBit
    let c ← drawBit
    if signedOf sz x < 0 then do
      setCcr { x := f.x, n := true, z := z, v := v, c := c }
      M.raise .chk
    else if signedOf sz ub < signedOf sz x then do
      setCcr { x := f.x, n := false, z := z, v := v, c := c }
      M.raise .chk
    else do
      let n ← drawBit
      setCcr { x := f.x, n := n, z := z, v := v, c := c }
      return .next) s

/-- CHK2 (R423). -/
def opChk2 (sz : Size) (xr : BitVec 4) (rsv : BitVec 11) (ea : EA) (s : State) : Step :=
  runInstr (2 + ea.extWords sz) (do
    specialWord (rsv == 0#11)
    let a ← addrEA ea 1
    flushPipeline
    let out ← boundsFlags sz xr a
    if out then M.raise .chk else return .next) s

/-- TRAPcc: its operand words are never fetched (R425). -/
def opTrapcc (words : Nat) (cc : BitVec 4) (s : State) : Step :=
  runInstr words (do
    flushPipeline
    if cond cc (← getCcr) then M.raise .trapcc else return .next) s

/-- TRAPV (R426). -/
def opTrapv (s : State) : Step :=
  runInstr 1 (do
    flushPipeline
    if (← getCcr).v then M.raise .trapcc else return .next) s

/-- BKPT (R430): a NOP, a breakpoint exception, or the JTAG halt of the context. -/
def opBkpt (s : State) : Step :=
  runInstr 1 (do
    flushPipeline
    if !s.params.dcrBkpt then return .next
    else if !s.params.jtagBkptMode then M.raise .breakpoint
    else do
      M.update fun s => s.withCtx { s.ctx with jtagHalt := true, run := .halted }
      return .sleep) s

/-- The caller's side of TRAPX (R428): FCR, the caller's pc, MC0 READY and running. -/
def trapxSwitch (s : State) : State :=
  let s1 := s.withCtx { s.ctx with pc := s.ctx.pc + 2#32 }
  { (s1.setRun 0 .ready).flush with fcr := s.cur, cur := 0 }

/-- TRAPX (R428): MC0 goes to vector 96 + v, with a frame only in Standard Interrupt Mode; log 37. -/
def opTrapx (v : BitVec 4) (s : State) : Step :=
  let k : Byte := 6#4 ++ v
  let s1 := trapxSwitch s
  let pc0 := s1.ctx.pc
  if s.params.stdIntMode[0] then takeEntry (enterException k pc0 none none) s1
  else
    match (do setPc (← readVector k)) s1 with
    | .ok () s2 => .next s2
    | .error (.exc (.addressError a)) s2 => memFault .address a pc0 s2
    | .error (.exc (.busError a)) s2 => memFault .bus a pc0 s2
    | .error (.exc _) _ => .refused .illFormed
    | .error (.refuse r) _ => .refused r

end Sys2Proof.Machine
end

