-- ==== Sys2Proof/Machine/SystemControl.lean ====
section
/-! DEFINITION. Sys2Proof/Machine/SystemControl.lean: system control (spec/48_system_control.md). -/

namespace Sys2Proof.Machine

/-- ORI #data,CCR (R383). -/
def execOriToCcr (imm : Byte) (s : State) : Step :=
  opImmToCcr (· ||| ·) imm s

/-- ORI #data,SR (R386). -/
def execOriToSr (imm : Word) (s : State) : Step :=
  opImmToSr (· ||| ·) imm s

/-- ANDI #data,CCR (R381). -/
def execAndiToCcr (imm : Byte) (s : State) : Step :=
  opImmToCcr (· &&& ·) imm s

/-- ANDI #data,SR (R384). -/
def execAndiToSr (imm : Word) (s : State) : Step :=
  opImmToSr (· &&& ·) imm s

/-- EORI #data,CCR (R382). -/
def execEoriToCcr (imm : Byte) (s : State) : Step :=
  opImmToCcr (· ^^^ ·) imm s

/-- EORI #data,SR (R385). -/
def execEoriToSr (imm : Word) (s : State) : Step :=
  opImmToSr (· ^^^ ·) imm s

/-- MOVES.B Rn,ea and MOVES.B ea,Rn (R391). -/
def execMovesB (xr : BitVec 4) (toMem : Bool) (rsv : BitVec 11) (ea : EA) (s : State) : Step :=
  opMoves .b xr toMem rsv ea s

/-- MOVES.W Rn,ea and MOVES.W ea,Rn (R391). -/
def execMovesW (xr : BitVec 4) (toMem : Bool) (rsv : BitVec 11) (ea : EA) (s : State) : Step :=
  opMoves .w xr toMem rsv ea s

/-- MOVES.L Rn,ea and MOVES.L ea,Rn (R391). -/
def execMovesL (xr : BitVec 4) (toMem : Bool) (rsv : BitVec 11) (ea : EA) (s : State) : Step :=
  opMoves .l xr toMem rsv ea s

/-- MOVE SR,ea (R389). -/
def execMoveFromSr (dst : EA) (s : State) : Step :=
  opMoveFromSr dst s

/-- MOVE CCR,ea (R387). -/
def execMoveFromCcr (dst : EA) (s : State) : Step :=
  opMoveFromCcr dst s

/-- MOVE ea,CCR (R388). -/
def execMoveToCcr (src : EA) (s : State) : Step :=
  opMoveToCcr src s

/-- MOVE An,USP (R393). -/
def execMoveToUsp (r : BitVec 3) (s : State) : Step :=
  opMoveToUsp r s

/-- MOVE USP,An (R393). -/
def execMoveFromUsp (r : BitVec 3) (s : State) : Step :=
  opMoveFromUsp r s

/-- RESET (R398). -/
def execReset (s : State) : Step :=
  opReset s

/-- STOP #data (R395). -/
def execStop (imm : Word) (s : State) : Step :=
  opStop imm s

/-- RTE (R394). -/
def execRte (s : State) : Step :=
  opRte s

/-- SLEEP (R397). -/
def execSleep (s : State) : Step :=
  opSleep s

/-- MOVEC Rc,Rn (R390). -/
def execMovecFromCr (xr : BitVec 4) (code : BitVec 12) (s : State) : Step :=
  opMovecFromCr xr code s

/-- MOVEC Rn,Rc (R390). -/
def execMovecToCr (xr : BitVec 4) (code : BitVec 12) (s : State) : Step :=
  opMovecToCr xr code s

/-- LPSTOP #data (R396). -/
def execLpstop (imm : Word) (s : State) : Step :=
  opLpstop imm s

end Sys2Proof.Machine
end

