-- ==== Sys2Proof/Machine/Trapping.lean ====
section
/-! DEFINITION. Sys2Proof/Machine/Trapping.lean: trapping and debug instructions (spec/49_trapping.md). -/

namespace Sys2Proof.Machine

/-- CHK2.B ea,Rn (R423). -/
def execChk2B (xr : BitVec 4) (rsv : BitVec 11) (ea : EA) (s : State) : Step :=
  opChk2 .b xr rsv ea s

/-- CHK2.W ea,Rn (R423). -/
def execChk2W (xr : BitVec 4) (rsv : BitVec 11) (ea : EA) (s : State) : Step :=
  opChk2 .w xr rsv ea s

/-- CHK2.L ea,Rn (R423). -/
def execChk2L (xr : BitVec 4) (rsv : BitVec 11) (ea : EA) (s : State) : Step :=
  opChk2 .l xr rsv ea s

/-- BKPT #data (R430). -/
def execBkpt (_v : BitVec 3) (s : State) : Step :=
  opBkpt s

/-- BGND (R429). -/
def execBgnd (s : State) : Step :=
  opTrapAlways .bgnd s

/-- ILLEGAL (R421). -/
def execIllegal (s : State) : Step :=
  opTrapAlways .illegal s

/-- TRAPX #n (R428). -/
def execTrapx (v : BitVec 4) (s : State) : Step :=
  opTrapx v s

/-- TRAP #vector (R424). -/
def execTrap (v : BitVec 4) (s : State) : Step :=
  opTrapAlways (.trap v) s

/-- TRAPV (R426). -/
def execTrapv (s : State) : Step :=
  opTrapv s

/-- CHK.W ea,Dn (R422). -/
def execChkW (r : BitVec 3) (src : EA) (s : State) : Step :=
  opChk .w r src s

/-- CHK.L ea,Dn (R422). -/
def execChkL (r : BitVec 3) (src : EA) (s : State) : Step :=
  opChk .l r src s

/-- TRAPcc.W #data (R425). -/
def execTrapccW (cc : BitVec 4) (_op : Word) (s : State) : Step :=
  opTrapcc 2 cc s

/-- TRAPcc.L #data (R425). -/
def execTrapccL (cc : BitVec 4) (_op : Long) (s : State) : Step :=
  opTrapcc 3 cc s

/-- TRAPcc (R425). -/
def execTrapcc (cc : BitVec 4) (s : State) : Step :=
  opTrapcc 1 cc s

end Sys2Proof.Machine
end

