-- ==== Sys2Proof/Machine/Dispatch.lean ====
section
/-! DEFINITION. Sys2Proof/Machine/Dispatch.lean: one arm per instruction, each one direct call of its meaning. -/

namespace Sys2Proof.Machine

def exec (i : Instr) (s : State) : Host.Outcome State Fault Refusal :=
  match i with
  | .oriB imm dst => Sys2Proof.Machine.execOriB imm dst s
  | .oriW imm dst => Sys2Proof.Machine.execOriW imm dst s
  | .oriL imm dst => Sys2Proof.Machine.execOriL imm dst s
  | .andiB imm dst => Sys2Proof.Machine.execAndiB imm dst s
  | .andiW imm dst => Sys2Proof.Machine.execAndiW imm dst s
  | .andiL imm dst => Sys2Proof.Machine.execAndiL imm dst s
  | .subiB imm dst => Sys2Proof.Machine.execSubiB imm dst s
  | .subiW imm dst => Sys2Proof.Machine.execSubiW imm dst s
  | .subiL imm dst => Sys2Proof.Machine.execSubiL imm dst s
  | .addiB imm dst => Sys2Proof.Machine.execAddiB imm dst s
  | .addiW imm dst => Sys2Proof.Machine.execAddiW imm dst s
  | .addiL imm dst => Sys2Proof.Machine.execAddiL imm dst s
  | .eoriB imm dst => Sys2Proof.Machine.execEoriB imm dst s
  | .eoriW imm dst => Sys2Proof.Machine.execEoriW imm dst s
  | .eoriL imm dst => Sys2Proof.Machine.execEoriL imm dst s
  | .cmpiB imm dst => Sys2Proof.Machine.execCmpiB imm dst s
  | .cmpiW imm dst => Sys2Proof.Machine.execCmpiW imm dst s
  | .cmpiL imm dst => Sys2Proof.Machine.execCmpiL imm dst s
  | .oriToCcr imm => Sys2Proof.Machine.execOriToCcr imm s
  | .oriToSr imm => Sys2Proof.Machine.execOriToSr imm s
  | .andiToCcr imm => Sys2Proof.Machine.execAndiToCcr imm s
  | .andiToSr imm => Sys2Proof.Machine.execAndiToSr imm s
  | .eoriToCcr imm => Sys2Proof.Machine.execEoriToCcr imm s
  | .eoriToSr imm => Sys2Proof.Machine.execEoriToSr imm s
  | .movesB xr toMem rsv ea => Sys2Proof.Machine.execMovesB xr toMem rsv ea s
  | .cmp2B xr rsv ea => Sys2Proof.Machine.execCmp2B xr rsv ea s
  | .chk2B xr rsv ea => Sys2Proof.Machine.execChk2B xr rsv ea s
  | .movesW xr toMem rsv ea => Sys2Proof.Machine.execMovesW xr toMem rsv ea s
  | .cmp2W xr rsv ea => Sys2Proof.Machine.execCmp2W xr rsv ea s
  | .chk2W xr rsv ea => Sys2Proof.Machine.execChk2W xr rsv ea s
  | .movesL xr toMem rsv ea => Sys2Proof.Machine.execMovesL xr toMem rsv ea s
  | .cmp2L xr rsv ea => Sys2Proof.Machine.execCmp2L xr rsv ea s
  | .chk2L xr rsv ea => Sys2Proof.Machine.execChk2L xr rsv ea s
  | .btst num ea => Sys2Proof.Machine.execBtst num ea s
  | .btstDn r ea => Sys2Proof.Machine.execBtstDn r ea s
  | .bchg num ea => Sys2Proof.Machine.execBchg num ea s
  | .bchgDn r ea => Sys2Proof.Machine.execBchgDn r ea s
  | .bclr num ea => Sys2Proof.Machine.execBclr num ea s
  | .bclrDn r ea => Sys2Proof.Machine.execBclrDn r ea s
  | .bset num ea => Sys2Proof.Machine.execBset num ea s
  | .bsetDn r ea => Sys2Proof.Machine.execBsetDn r ea s
  | .movepLoadW x y d => Sys2Proof.Machine.execMovepLoadW x y d s
  | .movepLoadL x y d => Sys2Proof.Machine.execMovepLoadL x y d s
  | .movepStoreW x y d => Sys2Proof.Machine.execMovepStoreW x y d s
  | .movepStoreL x y d => Sys2Proof.Machine.execMovepStoreL x y d s
  | .moveB src dst => Sys2Proof.Machine.execMoveB src dst s
  | .moveW src dst => Sys2Proof.Machine.execMoveW src dst s
  | .moveaW src r => Sys2Proof.Machine.execMoveaW src r s
  | .moveL src dst => Sys2Proof.Machine.execMoveL src dst s
  | .moveaL src r => Sys2Proof.Machine.execMoveaL src r s
  | .negxB dst => Sys2Proof.Machine.execNegxB dst s
  | .negxW dst => Sys2Proof.Machine.execNegxW dst s
  | .negxL dst => Sys2Proof.Machine.execNegxL dst s
  | .clrB dst => Sys2Proof.Machine.execClrB dst s
  | .clrW dst => Sys2Proof.Machine.execClrW dst s
  | .clrL dst => Sys2Proof.Machine.execClrL dst s
  | .negB dst => Sys2Proof.Machine.execNegB dst s
  | .negW dst => Sys2Proof.Machine.execNegW dst s
  | .negL dst => Sys2Proof.Machine.execNegL dst s
  | .notB dst => Sys2Proof.Machine.execNotB dst s
  | .notW dst => Sys2Proof.Machine.execNotW dst s
  | .notL dst => Sys2Proof.Machine.execNotL dst s
  | .moveFromSr dst => Sys2Proof.Machine.execMoveFromSr dst s
  | .moveFromCcr dst => Sys2Proof.Machine.execMoveFromCcr dst s
  | .moveToCcr src => Sys2Proof.Machine.execMoveToCcr src s
  | .refusedMoveToSr m q => Sys2Proof.Machine.execRefusedMoveToSr m q s
  | .nbcd dst => Sys2Proof.Machine.execNbcd dst s
  | .linkL r d => Sys2Proof.Machine.execLinkL r d s
  | .swap r => Sys2Proof.Machine.execSwap r s
  | .bkpt v => Sys2Proof.Machine.execBkpt v s
  | .pea ea => Sys2Proof.Machine.execPea ea s
  | .extW r => Sys2Proof.Machine.execExtW r s
  | .extL r => Sys2Proof.Machine.execExtL r s
  | .extbL r => Sys2Proof.Machine.execExtbL r s
  | .movemStoreW mask ea => Sys2Proof.Machine.execMovemStoreW mask ea s
  | .movemLoadW mask ea => Sys2Proof.Machine.execMovemLoadW mask ea s
  | .refusedMovemPcW e => Sys2Proof.Machine.execRefusedMovemPcW e s
  | .movemStoreL mask ea => Sys2Proof.Machine.execMovemStoreL mask ea s
  | .movemLoadL mask ea => Sys2Proof.Machine.execMovemLoadL mask ea s
  | .refusedMovemPcL e => Sys2Proof.Machine.execRefusedMovemPcL e s
  | .tstB src => Sys2Proof.Machine.execTstB src s
  | .tstW src => Sys2Proof.Machine.execTstW src s
  | .tstL src => Sys2Proof.Machine.execTstL src s
  | .tas dst => Sys2Proof.Machine.execTas dst s
  | .bgnd => Sys2Proof.Machine.execBgnd s
  | .illegal => Sys2Proof.Machine.execIllegal s
  | .muluL r15 l quad rsv h src => Sys2Proof.Machine.execMuluL r15 l quad rsv h src s
  | .mulsL r15 l quad rsv h src => Sys2Proof.Machine.execMulsL r15 l quad rsv h src s
  | .divuL r15 l quad rsv h src => Sys2Proof.Machine.execDivuL r15 l quad rsv h src s
  | .divsL r15 l quad rsv h src => Sys2Proof.Machine.execDivsL r15 l quad rsv h src s
  | .trapx v => Sys2Proof.Machine.execTrapx v s
  | .trap v => Sys2Proof.Machine.execTrap v s
  | .linkW r d => Sys2Proof.Machine.execLinkW r d s
  | .unlk r => Sys2Proof.Machine.execUnlk r s
  | .moveToUsp r => Sys2Proof.Machine.execMoveToUsp r s
  | .moveFromUsp r => Sys2Proof.Machine.execMoveFromUsp r s
  | .reset => Sys2Proof.Machine.execReset s
  | .nop => Sys2Proof.Machine.execNop s
  | .stop imm => Sys2Proof.Machine.execStop imm s
  | .rte => Sys2Proof.Machine.execRte s
  | .rtd d => Sys2Proof.Machine.execRtd d s
  | .rts => Sys2Proof.Machine.execRts s
  | .trapv => Sys2Proof.Machine.execTrapv s
  | .rtr => Sys2Proof.Machine.execRtr s
  | .sleep => Sys2Proof.Machine.execSleep s
  | .movecFromCr xr code => Sys2Proof.Machine.execMovecFromCr xr code s
  | .movecToCr xr code => Sys2Proof.Machine.execMovecToCr xr code s
  | .jsr ea => Sys2Proof.Machine.execJsr ea s
  | .jmp ea => Sys2Proof.Machine.execJmp ea s
  | .chkW r src => Sys2Proof.Machine.execChkW r src s
  | .chkL r src => Sys2Proof.Machine.execChkL r src s
  | .refusedChkImmW r => Sys2Proof.Machine.execRefusedChkImmW r s
  | .refusedChkImmL r => Sys2Proof.Machine.execRefusedChkImmL r s
  | .lea r ea => Sys2Proof.Machine.execLea r ea s
  | .addqB q dst => Sys2Proof.Machine.execAddqB q dst s
  | .subqB q dst => Sys2Proof.Machine.execSubqB q dst s
  | .addqW q dst => Sys2Proof.Machine.execAddqW q dst s
  | .subqW q dst => Sys2Proof.Machine.execSubqW q dst s
  | .addqL q dst => Sys2Proof.Machine.execAddqL q dst s
  | .subqL q dst => Sys2Proof.Machine.execSubqL q dst s
  | .scc cc dst => Sys2Proof.Machine.execScc cc dst s
  | .dbcc cc r d => Sys2Proof.Machine.execDbcc cc r d s
  | .trapccW cc op => Sys2Proof.Machine.execTrapccW cc op s
  | .trapccL cc op => Sys2Proof.Machine.execTrapccL cc op s
  | .trapcc cc => Sys2Proof.Machine.execTrapcc cc s
  | .bra d => Sys2Proof.Machine.execBra d s
  | .bsr d => Sys2Proof.Machine.execBsr d s
  | .bhi d => Sys2Proof.Machine.execBhi d s
  | .bls d => Sys2Proof.Machine.execBls d s
  | .bcc d => Sys2Proof.Machine.execBcc d s
  | .bcs d => Sys2Proof.Machine.execBcs d s
  | .bne d => Sys2Proof.Machine.execBne d s
  | .beq d => Sys2Proof.Machine.execBeq d s
  | .bvc d => Sys2Proof.Machine.execBvc d s
  | .bvs d => Sys2Proof.Machine.execBvs d s
  | .bpl d => Sys2Proof.Machine.execBpl d s
  | .bmi d => Sys2Proof.Machine.execBmi d s
  | .bge d => Sys2Proof.Machine.execBge d s
  | .blt d => Sys2Proof.Machine.execBlt d s
  | .bgt d => Sys2Proof.Machine.execBgt d s
  | .ble d => Sys2Proof.Machine.execBle d s
  | .moveq r d => Sys2Proof.Machine.execMoveq r d s
  | .orToDnB r src => Sys2Proof.Machine.execOrToDnB r src s
  | .orToEaB r dst => Sys2Proof.Machine.execOrToEaB r dst s
  | .orToDnW r src => Sys2Proof.Machine.execOrToDnW r src s
  | .orToEaW r dst => Sys2Proof.Machine.execOrToEaW r dst s
  | .orToDnL r src => Sys2Proof.Machine.execOrToDnL r src s
  | .orToEaL r dst => Sys2Proof.Machine.execOrToEaL r dst s
  | .refusedOrPcB r e => Sys2Proof.Machine.execRefusedOrPcB r e s
  | .refusedOrImmB r => Sys2Proof.Machine.execRefusedOrImmB r s
  | .refusedOrPcW r e => Sys2Proof.Machine.execRefusedOrPcW r e s
  | .refusedOrImmW r => Sys2Proof.Machine.execRefusedOrImmW r s
  | .refusedOrPcL r e => Sys2Proof.Machine.execRefusedOrPcL r e s
  | .refusedOrImmL r => Sys2Proof.Machine.execRefusedOrImmL r s
  | .refusedOrRegW r y => Sys2Proof.Machine.execRefusedOrRegW r y s
  | .refusedOrRegL r y => Sys2Proof.Machine.execRefusedOrRegL r y s
  | .divuW r src => Sys2Proof.Machine.execDivuW r src s
  | .divsW r src => Sys2Proof.Machine.execDivsW r src s
  | .refusedDivsImm r => Sys2Proof.Machine.execRefusedDivsImm r s
  | .sbcd x mem y => Sys2Proof.Machine.execSbcd x mem y s
  | .subToDnB r src => Sys2Proof.Machine.execSubToDnB r src s
  | .subToEaB r dst => Sys2Proof.Machine.execSubToEaB r dst s
  | .subToDnW r src => Sys2Proof.Machine.execSubToDnW r src s
  | .subToEaW r dst => Sys2Proof.Machine.execSubToEaW r dst s
  | .subToDnL r src => Sys2Proof.Machine.execSubToDnL r src s
  | .subToEaL r dst => Sys2Proof.Machine.execSubToEaL r dst s
  | .subaW r src => Sys2Proof.Machine.execSubaW r src s
  | .subaL r src => Sys2Proof.Machine.execSubaL r src s
  | .subxB x mem y => Sys2Proof.Machine.execSubxB x mem y s
  | .subxW x mem y => Sys2Proof.Machine.execSubxW x mem y s
  | .subxL x mem y => Sys2Proof.Machine.execSubxL x mem y s
  | .cmpB r src => Sys2Proof.Machine.execCmpB r src s
  | .cmpW r src => Sys2Proof.Machine.execCmpW r src s
  | .cmpL r src => Sys2Proof.Machine.execCmpL r src s
  | .cmpaW r src => Sys2Proof.Machine.execCmpaW r src s
  | .cmpaL r src => Sys2Proof.Machine.execCmpaL r src s
  | .eorB r dst => Sys2Proof.Machine.execEorB r dst s
  | .cmpmB x y => Sys2Proof.Machine.execCmpmB x y s
  | .eorW r dst => Sys2Proof.Machine.execEorW r dst s
  | .cmpmW x y => Sys2Proof.Machine.execCmpmW x y s
  | .eorL r dst => Sys2Proof.Machine.execEorL r dst s
  | .cmpmL x y => Sys2Proof.Machine.execCmpmL x y s
  | .andToDnB r src => Sys2Proof.Machine.execAndToDnB r src s
  | .andToEaB r dst => Sys2Proof.Machine.execAndToEaB r dst s
  | .andToDnW r src => Sys2Proof.Machine.execAndToDnW r src s
  | .andToEaW r dst => Sys2Proof.Machine.execAndToEaW r dst s
  | .andToDnL r src => Sys2Proof.Machine.execAndToDnL r src s
  | .andToEaL r dst => Sys2Proof.Machine.execAndToEaL r dst s
  | .muluW r src => Sys2Proof.Machine.execMuluW r src s
  | .mulsW r src => Sys2Proof.Machine.execMulsW r src s
  | .abcd x mem y => Sys2Proof.Machine.execAbcd x mem y s
  | .exgDD x y => Sys2Proof.Machine.execExgDD x y s
  | .exgAA x y => Sys2Proof.Machine.execExgAA x y s
  | .exgDA x y => Sys2Proof.Machine.execExgDA x y s
  | .addToDnB r src => Sys2Proof.Machine.execAddToDnB r src s
  | .addToEaB r dst => Sys2Proof.Machine.execAddToEaB r dst s
  | .addToDnW r src => Sys2Proof.Machine.execAddToDnW r src s
  | .addToEaW r dst => Sys2Proof.Machine.execAddToEaW r dst s
  | .addToDnL r src => Sys2Proof.Machine.execAddToDnL r src s
  | .addToEaL r dst => Sys2Proof.Machine.execAddToEaL r dst s
  | .addaW r src => Sys2Proof.Machine.execAddaW r src s
  | .addaL r src => Sys2Proof.Machine.execAddaL r src s
  | .addxB x mem y => Sys2Proof.Machine.execAddxB x mem y s
  | .addxW x mem y => Sys2Proof.Machine.execAddxW x mem y s
  | .addxL x mem y => Sys2Proof.Machine.execAddxL x mem y s
  | .aslB k reg r => Sys2Proof.Machine.execAslB k reg r s
  | .aslW k reg r => Sys2Proof.Machine.execAslW k reg r s
  | .aslL k reg r => Sys2Proof.Machine.execAslL k reg r s
  | .aslMem dst => Sys2Proof.Machine.execAslMem dst s
  | .asrB k reg r => Sys2Proof.Machine.execAsrB k reg r s
  | .asrW k reg r => Sys2Proof.Machine.execAsrW k reg r s
  | .asrL k reg r => Sys2Proof.Machine.execAsrL k reg r s
  | .asrMem dst => Sys2Proof.Machine.execAsrMem dst s
  | .lslB k reg r => Sys2Proof.Machine.execLslB k reg r s
  | .lslW k reg r => Sys2Proof.Machine.execLslW k reg r s
  | .lslL k reg r => Sys2Proof.Machine.execLslL k reg r s
  | .lslMem dst => Sys2Proof.Machine.execLslMem dst s
  | .lsrB k reg r => Sys2Proof.Machine.execLsrB k reg r s
  | .lsrW k reg r => Sys2Proof.Machine.execLsrW k reg r s
  | .lsrL k reg r => Sys2Proof.Machine.execLsrL k reg r s
  | .lsrMem dst => Sys2Proof.Machine.execLsrMem dst s
  | .roxlB k reg r => Sys2Proof.Machine.execRoxlB k reg r s
  | .roxlW k reg r => Sys2Proof.Machine.execRoxlW k reg r s
  | .roxlL k reg r => Sys2Proof.Machine.execRoxlL k reg r s
  | .roxlMem dst => Sys2Proof.Machine.execRoxlMem dst s
  | .roxrB k reg r => Sys2Proof.Machine.execRoxrB k reg r s
  | .roxrW k reg r => Sys2Proof.Machine.execRoxrW k reg r s
  | .roxrL k reg r => Sys2Proof.Machine.execRoxrL k reg r s
  | .roxrMem dst => Sys2Proof.Machine.execRoxrMem dst s
  | .rolB k reg r => Sys2Proof.Machine.execRolB k reg r s
  | .rolW k reg r => Sys2Proof.Machine.execRolW k reg r s
  | .rolL k reg r => Sys2Proof.Machine.execRolL k reg r s
  | .rolMem dst => Sys2Proof.Machine.execRolMem dst s
  | .rorB k reg r => Sys2Proof.Machine.execRorB k reg r s
  | .rorW k reg r => Sys2Proof.Machine.execRorW k reg r s
  | .rorL k reg r => Sys2Proof.Machine.execRorL k reg r s
  | .rorMem dst => Sys2Proof.Machine.execRorMem dst s
  | .lpstop imm => Sys2Proof.Machine.execLpstop imm s

end Sys2Proof.Machine
end

