-- ==== Sys2Proof/Machine/HostEvents.lean ====
section
/-! DEFINITION. Sys2Proof/Machine/HostEvents.lean: what the host does to the machine (spec/70_reset_and_hazards.md R517),
reset (R500–R503) and interrupts (60_exceptions.md R470, R471). -/

namespace Sys2Proof.Machine

/-! ## Reset (R500–R503) -/

/-- `n` fresh arbitrary values. -/
def drawVector (n : Nat) : M (Vector Long n) := fun s =>
  .ok (Vector.ofFn fun i : Fin n => Config.freeLong (s.draws + i.val)) { s with draws := s.draws + n }

/-- A supplied register set, its unimplemented bits cleared (R27, R32). Its trace bits stay as supplied under every
TRACE_POLICY: R475 refuses the instructions that set one, and speaks of no register set (log 49). -/
def sanitise (p : Params) (c : Ctx) : Ctx :=
  { c with sr := c.sr &&& srImplemented, sfc := fcMask p c.sfc, dfc := fcMask p c.dfc, jtagHalt := false }

/-- A context with every register free (R501, R503, U14). -/
def drawCtx : M Ctx := do
  let p ← M.read State.params
  let d ← drawVector 8
  let a ← drawVector 7
  let w ← drawVector 7
  return { d := d, a := a, usp := w[0], ssp := w[1], pc := w[2], sr := (w[3].setWidth 16) &&& srImplemented,
           vbr := w[4], sfc := fcMask p w[5], dfc := fcMask p w[6], run := .halted, jtagHalt := false }

/-- Context `i` of 1 to 4 after a reset: CTX_INIT, or absent (R503). -/
def resetOther (i : CtxId) : M Ctx := do
  match ← M.read fun s => s.resetCtx[i.val] with
  | some c => return sanitise (← M.read State.params) c
  | none => drawCtx

/-- MC0 after a reset: RESET_STATE, or the default of R501 with SSP and pc from the vector table at 0. -/
def resetMaster : M Ctx := do
  match ← M.read fun s => s.resetCtx[0] with
  | some c => return { sanitise (← M.read State.params) c with run := .ready }
  | none => do
    let vec ← M.read fun s => s.params.vec
    let ssp ← memRead ((vec.resetSsp ++ 0#2).setWidth 32) .l
    let pc ← memRead ((vec.resetPc ++ 0#2).setWidth 32) .l
    let c ← drawCtx
    return { c with ssp := ssp, pc := pc, sr := 0x2700#16, vbr := 0#32, run := .ready }

/-- The registers behind MOVEC_EXT_CODES after a reset: RESET_STATE loads none of them, so each is a free value
(R46, U14; log 21). -/
def drawExt : List (BitVec 12 × ExtReg) → M (List (BitVec 12 × ExtReg))
  | [] => pure []
  | (code, .fcr) :: l => return (code, .fcr) :: (← drawExt l)
  | (code, .plain _) :: l => do
    let v ← draw
    return (code, .plain v) :: (← drawExt l)

/-- The registers of every context and of the machine after a reset; memory is kept (R501–R504). The reset counts as a
pipeline flush, which R77's list of flushing events does not name: the model's choice (log 48). -/
def resetBody : M Unit := do
  M.update fun s => { s with mark := .none, cpu := .running, cur := 0, stale := [] }
  let c1 ← resetOther 1
  let c2 ← resetOther 2
  let c3 ← resetOther 3
  let c4 ← resetOther 4
  let f ← drawCtxId
  let x ← drawExt (← M.read State.extRegs)
  let c0 ← resetMaster
  M.update fun s => { s with ctxs := #v[c0, c1, c2, c3, c4], fcr := f, extRegs := x }

/-- A reset (R500). A fault while its two vectors are read is a fault during exception entry (R463); the spec does not say
what the registers then hold, and the model's choice is that every context, FCR and the extended registers stay as they
were, with context 0 running and no byte stale. A read the model would refuse is taken as such a fault too (log 52). -/
def hostReset (s : State) : State :=
  match resetBody s with
  | .ok _ s' => s'
  | .error _ s' => { s' with mark := .doubleFault }

/-! ## Events (R517) -/

/-- A context marked READY and the scheduler run. -/
def wakeCtx (i : CtxId) (s : State) : State := reschedule (s.setRun i .ready)

/-- A device region is declared (R517). -/
def hasDevice (p : Params) : Bool :=
  p.memMap.any fun r => r.kind matches .device _

/-- One event of the host. A bus write reaches ram only: rom and unmapped addresses keep what they hold, and raise
nothing, since no instruction made the access (R78; log 11). `markReady` and `clearJtagHalt` leave a STOPPED CPU stopped
(log 55). -/
def applyEvent (s : State) (e : HostEvent) : State :=
  match e with
  | .reset => hostReset s
  | .irq r => if s.irqs.contains r then s else { s with irqs := r :: s.irqs }
  | .dropIrq r => { s with irqs := s.irqs.filter fun q => q ≠ r }
  | .markReady i => if s.ctxs[i.val].run = .notReady then wakeCtx i s else s
  | .clearJtagHalt i =>
    if s.ctxs[i.val].jtagHalt then
      let s1 := { s with ctxs := s.ctxs.set i.val { s.ctxs[i.val] with jtagHalt := false } }
      if s.ctxs[i.val].run = .halted then wakeCtx i s1 else s1
    else s
  | .busWrite a v =>
    if hasDevice s.params && kindAt s.params a.toNat == .ram then s.storeByte a.toNat v else s

/-- The batch of events of this step. -/
def deliver (s : State) : State :=
  match s.events with
  | [] => s
  | batch :: rest => batch.foldl applyEvent { s with events := rest }

/-! ## Interrupts (R470, R471) -/

/-- A request is eligible (R471): above the mask of its context, or level 7 under IRQ_NMI7; log 24. -/
def eligible (s : State) (r : IrqReq) : Bool :=
  decide ((srMask s.ctxs[r.ctx.val].sr).toNat < r.level.toNat) || (s.params.irqNmi7 && r.level == 7#3)

/-- What an eligible request does before it is accepted: the CPU leaves STOPPED, and its context NOT_READY (R471 a, b). -/
def wakeFor (s : State) (r : IrqReq) : State :=
  let s1 := if s.cpu = .stopped then { s with cpu := .running } else s
  if s1.ctxs[r.ctx.val].run = .notReady then wakeCtx r.ctx s1 else s1

/-- Every eligible request wakes its context; nothing wakes an LPSTOPPED machine (R396, R471). -/
def wake (s : State) : State :=
  if s.cpu = .lpStopped then s else (s.irqs.filter (eligible s)).foldl wakeFor s

/-- The better of two requests for one context: the higher level, then the lower vector (R471). -/
def betterIrq (r q : IrqReq) : IrqReq :=
  if q.level.toNat < r.level.toNat ∨ (q.level = r.level ∧ r.vector.toNat ≤ q.vector.toNat) then r else q

/-- The request the running context accepts next. -/
def pickIrq (s : State) : Option IrqReq :=
  match s.irqs.filter (fun r => r.ctx == s.cur && eligible s r) with
  | [] => none
  | r :: rs => some (rs.foldl betterIrq r)

/-- The acceptance of a request by the running context (R471 c): exception entry in Standard Interrupt Mode, else a
jump through the vector without a frame; a fault of either is a double fault (log 36). -/
def acceptIrq (r : IrqReq) (s : State) : Step :=
  let s1 := { s with irqs := s.irqs.filter fun q => q ≠ r }
  if s.params.stdIntMode[s.cur.val] then
    takeEntry (enterException r.vector s.ctx.pc none (some r.level)) s1
  else takeEntry (do flushPipeline; setPc (← readVector r.vector)) s1

/-- The running context executes: the CPU runs, the context is READY and no debugger holds it (R430, R462). -/
def canRun (s : State) : Bool :=
  s.cpu == .running && s.ctx.run == .ready && !s.ctx.jtagHalt

end Sys2Proof.Machine
end

