-- ==== Sys2Proof/Machine/Fetch.lean ====
section
/-! DEFINITION. Sys2Proof/Machine/Fetch.lean: the events of one step around the instruction, in the order of
spec/60_exceptions.md R462, and the fetch (R65, R67, R77, R150). -/

namespace Sys2Proof.Machine

/-- `n` bytes of memory from `a` on, addresses modulo 2^32 (R61, R65). -/
def bytesFrom (s : State) (a : Long) : Nat → List Byte
  | 0 => []
  | n + 1 => s.byteAt a.toNat :: bytesFrom s (a + 1#32) n

/-- The decoded instruction at the pc of the running context; later words count only as far as it uses them. -/
def fetchDecode (s : State) : Decoded := decodeBytes (bytesFrom s s.ctx.pc (2 * maxWords))

/-- A class-U word of line 1111: behind 0xF800 the second word is part of the operation code (R148, R396). -/
def raiseLineF : M Flow := do
  let w ← M.read fun s => s.codeWord s.ctx.pc
  if w = 0xF800#16 then touchExt 0 1
  M.raise .lineF

/-- Fetch and execute one instruction by `run` (R462, steps 3 to 7). -/
def executeNext (run : Instr → State → Step) (s : State) : Step :=
  match fetchCheck s s.ctx.pc with
  | some e => runInstr 1 (fun s => .error e s) s
  | none =>
    match fetchDecode s with
    | .instr i => run i s
    | .illegal => runInstr 1 (M.raise .illegal) s
    | .lineA => runInstr 1 (M.raise .lineA) s
    | .lineF => runInstr 1 raiseLineF s

/-- One step after the host's events (R462, R516): a terminal mark is a fault; else wake, idle, accept an interrupt, or
execute. -/
def advance (run : Instr → State → Step) (s : State) : Step :=
  match s.mark with
  | .faulted kind a pc => .fault (.memory kind a pc)
  | .doubleFault => .fault .doubleFault
  | .none =>
    let s1 := wake s
    if canRun s1 then
      match pickIrq s1 with
      | some r => acceptIrq r s1
      | none => executeNext run s1
    else .next s1

/-- Bytes put into memory from `a` on, without any check; none of them is stale. -/
def placeBytes (s : State) (a : Long) : List Byte → State
  | [] => s
  | v :: vs =>
    let b := busAddr s.params a.toNat
    placeBytes { s with mem := s.mem.set b v, stale := s.stale.filter fun c => c ≠ b } (a + 1#32) vs

/-- The state made ready to execute at its pc: no terminal mark, nothing pending, the running context READY, its pc
even and in plain memory. -/
def readyToFetch (s : State) : State :=
  let c := s.ctx
  let pc := c.pc &&& 0xFFFFFFFE#32
  let s1 := s.withCtx { c with pc := pc, run := .ready, jtagHalt := false }
  { s1 with
    cpu := .running, mark := .none, irqs := [], events := [],
    params :=
      if touchesUnmapped s.params pc.toNat (2 * maxWords) || touchesDevice s.params pc.toNat (2 * maxWords) then
        { s.params with memMap := [] }
      else s.params }

end Sys2Proof.Machine
end

