-- ==== Sys2Proof/Machine/Step.lean ====
section
/-! DEFINITION. Sys2Proof/Machine/Step.lean: one step of the machine. -/

namespace Sys2Proof.Machine

/-- One step: the host's events of this step, then the machine (R462). -/
def step (s : State) : Host.Outcome State Fault Refusal := advance exec (deliver s)

/-- `s` with the instruction that spec/opcode_table.json numbers `w` stored at its pc, and ready to run it (log 10). -/
def State.withFetchWord (s : State) (nbits w : Nat) : State :=
  placeBytes (readyToFetch s) (readyToFetch s).ctx.pc (tableBytes nbits w)

end Sys2Proof.Machine
end

