-- ==== Sys2Proof/Safety.lean ====
section
/-! DEFINITION. Sys2Proof/Safety.lean: the terms in which claims are stated: what a good state is, when an operand can
be accessed, and the state an access or an exception entry leaves, each as a plain function of the state. -/

namespace Sys2Proof.Machine

/-! ## Good states -/

/-- A context holds no unimplemented bit (R26–R28, R32). -/
def Ctx.inv (p : Params) (c : Ctx) : Bool :=
  c.sr &&& srImplemented == c.sr && fcMask p c.sfc == c.sfc && fcMask p c.dfc == c.dfc

/-- A rising list of addresses. -/
abbrev staleWf (l : List Nat) : Prop := l.Pairwise (· < ·) ∧ ∀ a ∈ l, a < 2 ^ 32

/-- What every step keeps: memory and the stale addresses in canonical form, unimplemented bits zero in every context,
and MC0 running whenever it is READY (R43). -/
structure State.Inv (s : State) : Prop where
  mem : s.mem.wf
  stale : staleWf s.stale
  ctxs : ∀ i : Fin 5, s.ctxs[i.val].inv s.params = true
  master : s.ctxs[0].run = .ready → s.cur = 0

/-- No trace exception and no refusal follows the instruction (R475). -/
def untraced (s : State) : Bool := s.params.tracePolicy != .cpu32 || !srTraced s.ctx.sr

/-- A status word that TRACE_POLICY lets an instruction write (R475). -/
def srWritable (s : State) (v : Word) : Bool :=
  s.params.tracePolicy != .refuse || !srTraced (srUnpack s.params.srLayout v)

/-! ## Accesses that succeed -/

/-- Extension words `k` to `k + n - 1` can be fetched. -/
def fetchable (s : State) (k n : Nat) : Bool :=
  (List.range n).all fun j => (fetchCheck s (extAddr s.ctx.pc (k + j))).isNone

/-- Data of size `sz` can be read at `a`. -/
def readable (s : State) (a : Long) (sz : Size) : Bool := (accessCheck s.params a sz).isNone

/-- Data of size `sz` can be written at `a`. -/
def writable (s : State) (a : Long) (sz : Size) : Bool := (writeCheck s.params a sz).isNone

/-- An index extension doc00 gives a meaning (R123). -/
def idxUsable : IdxExt → Bool
  | .brief _ _ | .full _ _ _ _ => true
  | .illegal _ | .unstated _ => false

/-- An effective address doc00 gives a meaning. -/
def eaUsable : EA → Bool
  | .idx _ x | .pcIdx x => idxUsable x
  | _ => true

/-- The address of an indexed mode (R120–R122). -/
def indexedAt (s : State) (base : Long) : IdxExt → Long
  | .brief i d => base + indexValue s.ctx i + d.signExtend 32
  | .full i bs is bd =>
    (if bs then 0#32 else base) + (if is then 0#32 else indexValue s.ctx i) + baseDispValue bd
  | .illegal _ | .unstated _ => 0#32

/-- The place of an operand of size `sz` whose extension words begin at word `k` (R112–R125), and the register
update of its mode. -/
def placeOf (s : State) (ea : EA) (sz : Size) (k : Nat) : Place :=
  match ea with
  | .dn n => ⟨.dreg n, none⟩
  | .an n => ⟨.areg n, none⟩
  | .ind n => ⟨.mem (s.ctx.getA n), none⟩
  | .postinc n => ⟨.mem (s.ctx.getA n), some (n, s.ctx.getA n + autoStep s.params n sz)⟩
  | .predec n =>
    ⟨.mem (s.ctx.getA n - autoStep s.params n sz), some (n, s.ctx.getA n - autoStep s.params n sz)⟩
  | .disp n d => ⟨.mem (s.ctx.getA n + d.signExtend 32), none⟩
  | .idx n x => ⟨.mem (indexedAt s (s.ctx.getA n) x), none⟩
  | .absW w => ⟨.mem (w.signExtend 32), none⟩
  | .absL a => ⟨.mem a, none⟩
  | .pcDisp d => ⟨.mem (extAddr s.ctx.pc k + d.signExtend 32), none⟩
  | .pcIdx x => ⟨.mem (indexedAt s (extAddr s.ctx.pc k) x), none⟩
  | .imm v => ⟨.imm v, none⟩

/-- The address of a control operand. -/
def addrOf (s : State) (ea : EA) (k : Nat) : Long :=
  match (placeOf s ea .l k).loc with
  | .mem a => a
  | _ => 0#32

/-- The operand's words can be fetched and have a meaning. -/
def located (s : State) (ea : EA) (sz : Size) (k : Nat) : Bool :=
  fetchable s k (ea.extWords sz) && eaUsable ea

/-- The operand at a place. -/
def valueAt (s : State) (sz : Size) : Loc → Long
  | .dreg r => trunc sz (s.ctx.getD r)
  | .areg r => trunc sz (s.ctx.getA r)
  | .mem a => s.readAt a.toNat sz
  | .imm v => trunc sz v

/-- The operand at a place can be read. -/
def readableAt (s : State) (sz : Size) : Loc → Bool
  | .mem a => readable s a sz
  | _ => true

/-- An operand can be stored at a place. -/
def writableAt (s : State) (sz : Size) : Loc → Bool
  | .dreg _ => true
  | .mem a => writable s a sz
  | .areg _ | .imm _ => false

/-- The operand can be read. -/
def sourceReady (s : State) (ea : EA) (sz : Size) (k : Nat) : Bool :=
  located s ea sz k && readableAt s sz (placeOf s ea sz k).loc

/-- The operand can be written. -/
def targetReady (s : State) (ea : EA) (sz : Size) (k : Nat) : Bool :=
  located s ea sz k && writableAt s sz (placeOf s ea sz k).loc

/-- The operand can be read and written. -/
def modifyReady (s : State) (ea : EA) (sz : Size) (k : Nat) : Bool :=
  located s ea sz k && readableAt s sz (placeOf s ea sz k).loc && writableAt s sz (placeOf s ea sz k).loc

/-- The words of a control operand can be fetched and it is an address. -/
def addressReady (s : State) (ea : EA) (k : Nat) : Bool :=
  located s ea .l k && ((placeOf s ea .l k).loc matches .mem _)

/-! ## What accesses leave -/

/-- The running context's condition codes replaced. -/
def State.withCcr (s : State) (f : Ccr) : State := s.withCtx { s.ctx with sr := putCcr s.ctx.sr f }
/-- The running context's SR replaced whole. -/
def State.withSr (s : State) (v : Word) : State := s.withCtx { s.ctx with sr := srUnpack s.params.srLayout v }
/-- The running context's pc replaced. -/
def State.withPc (s : State) (v : Long) : State := s.withCtx { s.ctx with pc := v }
/-- The low `sz` bits of a data register replaced. -/
def State.withD (s : State) (r : BitVec 3) (sz : Size) (v : Long) : State :=
  s.withCtx (s.ctx.withD r (insertLow sz (s.ctx.getD r) v))
/-- An address register replaced. -/
def State.withA (s : State) (r : BitVec 3) (v : Long) : State := s.withCtx (s.ctx.withA r v)
/-- A general register replaced. -/
def State.withR (s : State) (k : BitVec 4) (v : Long) : State := s.withCtx (s.ctx.withR k v)
/-- The active stack pointer replaced. -/
def State.withSp (s : State) (v : Long) : State := s.withCtx (s.ctx.withSp v)
/-- A number of free values drawn. -/
def State.drew (s : State) (n : Nat) : State := { s with draws := s.draws + n }
/-- Free value number `k` from here on. -/
def State.free (s : State) (k : Nat) : Long := Config.freeLong (s.draws + k)
/-- Free bit number `k` from here on. -/
def State.freeBit (s : State) (k : Nat) : Bool := (Config.freeLong (s.draws + k)).getLsbD 0

/-- The register update of an operand's mode. -/
def State.bump (s : State) (p : Place) : State :=
  match p.upd with
  | none => s
  | some (r, v) => s.withA r v

/-- Bytes stored at an address. -/
def State.wrote (s : State) (a : Long) (sz : Size) (v : Long) : State :=
  s.storeBytes a.toNat (operandBytes sz v)

/-- An operand stored at a place. -/
def State.storeAt (s : State) (sz : Size) (v : Long) : Loc → State
  | .dreg r => s.withD r sz v
  | .mem a => s.wrote a sz v
  | .areg _ | .imm _ => s

/-- A push can be made. -/
def pushable (s : State) (sz : Size) : Bool := writable s (s.ctx.sp - stepOf sz) sz

/-- A push. -/
def State.pushed (s : State) (sz : Size) (v : Long) : State :=
  (s.wrote (s.ctx.sp - stepOf sz) sz v).withSp (s.ctx.sp - stepOf sz)

/-- The address of the instruction after one of `words` words. -/
def State.after (s : State) (words : Nat) : Long := s.ctx.pc + BitVec.ofNat 32 (2 * words)

/-- `t`, with the pc past the instruction of `words` words that began in `s`. -/
def State.finished (s : State) (words : Nat) (t : State) : State := t.withPc (s.after words)

/-! ## Exception entry (R460) -/

/-- Supervisor state with trace off and the mask of an interrupt, before the frame is pushed. -/
def State.entering (s : State) (level : Option (BitVec 3)) : State :=
  s.flush.withCtx { s.ctx with sr := srForEntry s.ctx.sr level }

/-- The address of vector `k` (R452). -/
def vectorAddr (s : State) (k : Byte) : Long := s.ctx.vbr + (k ++ 0#2).setWidth 32

/-- The frame of R455 or R456 pushed on the supervisor stack, after the flush of the entry (log 54). -/
def State.framed (s : State) (k : Byte) (spc : Long) (ipc : Option Long) (level : Option (BitVec 3)) : State :=
  let s1 := s.entering level
  let s2 := match ipc with
    | some a => s1.pushed .l a
    | none => s1
  ((s2.pushed .w ((formatWord ipc.isSome k).setWidth 32)).pushed .l spc).pushed .w (s.srWord.setWidth 32)

/-- The state after exception entry. -/
def State.entered (s : State) (k : Byte) (spc : Long) (ipc : Option Long) (level : Option (BitVec 3)) : State :=
  let t := s.framed k spc ipc level
  t.withPc (t.readAt (vectorAddr s k).toNat .l)

/-- The frame can be pushed and the vector read. -/
def entryReady (s : State) (k : Byte) (six : Bool) : Bool :=
  let a := s.ctx.ssp
  (!six || writable s (a - 4#32) .l) &&
    (let b := if six then a - 4#32 else a
     writable s (b - 2#32) .w && writable s (b - 6#32) .l && writable s (b - 8#32) .w) &&
    readable s (vectorAddr s k) .l

/-! ## Memory faults (R465) -/

/-- The exception of a memory fault at `x` (R451). -/
def MemFault.exc (kind : MemFault) (x : Long) : Exc :=
  match kind with
  | .address => .addressError x
  | .bus => .busError x

/-- The outcome `o` of an AddressError or BusError at `x`, raised in state `u` by the instruction at `pc`: the mark of
FAULT_POLICY = terminal, or the exception of vectored, whose frame is the six-word one with `pc` saved and `x` as the
instruction address (R465). -/
def endsFaulted (u : State) (kind : MemFault) (x pc : Long) (o : Step) : Prop :=
  let k := match kind with
    | .address => u.params.vec.addressError
    | .bus => u.params.vec.busError
  (u.params.faultPolicy = .terminal → o = .next { u with mark := .faulted kind x pc }) ∧
  (u.params.faultPolicy = .vectored → entryReady u k true = true → o = .next (u.entered k pc (some x) none))

/-! ## Lists of registers (R166–R169) -/

/-- Every one of `n` slots of size `sz`, the first at `a` and each `d` further on, can be written. -/
def slotsWritable (s : State) (sz : Size) (a d : Long) (n : Nat) : Bool :=
  (List.range n).all fun j => writable s (a + BitVec.ofNat 32 j * d) sz

/-- The same for reading. -/
def slotsReadable (s : State) (sz : Size) (a d : Long) (n : Nat) : Bool :=
  (List.range n).all fun j => readable s (a + BitVec.ofNat 32 j * d) sz

/-- Registers stored from `a` upward. -/
def State.storedUp (s : State) (sz : Size) : List (BitVec 4) → Long → State
  | [], _ => s
  | k :: ks, a => (s.wrote a sz (s.ctx.getR k)).storedUp sz ks (a + stepOf sz)

/-- Registers stored downward from below `a`, the base register `A[n]` as its once-decremented value `own`. -/
def State.storedDown (s : State) (sz : Size) (n : BitVec 3) (own : Long) : List (BitVec 4) → Long → State
  | [], _ => s
  | k :: ks, a =>
    (s.wrote (a - stepOf sz) sz (if k = 1#1 ++ n then own else s.ctx.getR k)).storedDown sz n own ks (a - stepOf sz)

/-- Registers loaded from `a` upward, but for one that is left alone. -/
def State.loadedUp (s : State) (sz : Size) (skip : Option (BitVec 4)) : List (BitVec 4) → Long → State
  | [], _ => s
  | k :: ks, a =>
    (if skip = some k then s else s.withR k (sext sz (s.readAt a.toNat sz))).loadedUp sz skip ks (a + stepOf sz)

/-- Bytes stored at every second address from `a`. -/
def State.storedAlternate (s : State) : List Byte → Long → State
  | [], _ => s
  | b :: bs, a => (s.wrote a .b (b.setWidth 32)).storedAlternate bs (a + 2#32)

/-! ## Frames -/

/-- What no instruction but a system one changes: every context that does not run, the machine around the contexts, the
system registers of the running one, and the bits of SR above the condition codes. -/
structure sameSystem (s t : State) : Prop where
  cur : t.cur = s.cur
  others : ∀ j : Fin 5, j ≠ s.cur → t.ctxs[j.val] = s.ctxs[j.val]
  cpu : t.cpu = s.cpu
  fcr : t.fcr = s.fcr
  mark : t.mark = s.mark
  irqs : t.irqs = s.irqs
  events : t.events = s.events
  extRegs : t.extRegs = s.extRegs
  params : t.params = s.params
  resetCtx : t.resetCtx = s.resetCtx
  vbr : t.ctx.vbr = s.ctx.vbr
  sfc : t.ctx.sfc = s.ctx.sfc
  dfc : t.ctx.dfc = s.ctx.dfc
  run : t.ctx.run = s.ctx.run
  jtagHalt : t.ctx.jtagHalt = s.ctx.jtagHalt
  status : ∀ i, 5 ≤ i → t.ctx.sr.getLsbD i = s.ctx.sr.getLsbD i
  /-- the stack pointer that is not active -/
  otherSp : (if srS s.ctx.sr then t.ctx.usp else t.ctx.ssp) = if srS s.ctx.sr then s.ctx.usp else s.ctx.ssp

/-- Every general register but those listed, A7 being SP, reads as before. -/
def sameRegisters (s t : State) (changed : List (BitVec 4)) : Prop :=
  ∀ k, k ∉ changed → t.ctx.getR k = s.ctx.getR k

/-- The address register an operand's mode updates. -/
def bumped (p : Place) : List (BitVec 4) :=
  match p.upd with
  | none => []
  | some (n, _) => [1#1 ++ n]

/-- The register an operand in a register is. -/
def destination (p : Place) : List (BitVec 4) :=
  match p.loc with
  | .dreg r => [0#1 ++ r]
  | _ => []

/-- Every byte of memory but the `n` bytes that the addresses from `a` reach holds what it held. -/
def sameMemoryOutside (s t : State) (a : Long) (n : Nat) : Prop :=
  ∀ b : Nat, (∀ j < n, b ≠ busAddr s.params (a.toNat + j)) → t.mem.get b = s.mem.get b

/-- Every byte of memory holds what it held. -/
def sameMemory (s t : State) : Prop := ∀ b : Nat, t.mem.get b = s.mem.get b

/-- No rom among the `n` bytes from `a`: what is stored there stays (R78). -/
def noRom (s : State) (a : Long) (n : Nat) : Bool := !touchesRom s.params a.toNat n

end Sys2Proof.Machine
end

