-- ==== Sys2Proof/Certificates/Slice0/Obligations.lean ====
section
/-! DEFINITION. Sys2Proof/Certificates/Slice0/Obligations.lean: the statements for the provers. Each is listed in
OBLIGATIONS.json with what it says in words and the rules of spec/ it rests on. `untraced s` says that no trace exception
follows the instruction; `sourceReady`, `targetReady`, `modifyReady`, `addressReady` that its operand's words can be
fetched and the operand read, written, both, or addressed; `entryReady` that an exception frame can be pushed and its
vector read (Sys2Proof/Safety.lean). Free values stand as `State.free` and `State.freeBit`: a statement holds whatever
they are. -/

open Sys2Proof Sys2Proof.Machine

/-- A step runs the decoded instruction. For every state: the host events of the step are delivered; if then no
terminal mark is set, the wake-ups are made, the running context can run and accepts no interrupt, and the word at its
pc can be fetched and decodes to instruction i, the step is exec of i in that state. When moreover no event and no
request is pending, it is exec of i in the very state of the step. exec itself leaves the pc: nothing is added around
it. (60_exceptions.md R462, 00_scope.md R11) -/
def Obligations.StepRunsDecoded : Prop :=
  (∀ (s : State) (i : Instr), (deliver s).mark = .none →
    canRun (wake (deliver s)) = true → pickIrq (wake (deliver s)) = none →
    fetchCheck (wake (deliver s)) (wake (deliver s)).ctx.pc = none → fetchDecode (wake (deliver s)) = .instr i →
    step s = exec i (wake (deliver s))) ∧
  ∀ (s : State) (i : Instr), s.mark = .none → s.events = [] → s.irqs = [] → canRun s = true →
    fetchCheck s s.ctx.pc = none → fetchDecode s = .instr i → step s = exec i s

/-- Some words of the spec decode to the instructions it says. Words written out from the encodings of the spec decode
to their instructions: MOVEQ #-1,D3 = 76FF, LEA 8(A0),A1 = 43E8 0008, ADD.W (A0)+,D1 = D258, MULS.L with a special
word, DBF D0,*-2 = 51C8 FFFC, MOVEC D0,VBR = 4E7B 0801, LPSTOP #0x2700 = F800 01C0 2700; 4AFB is illegal, A000 is line
1010, F800 0000 is line 1111. (30_encoding.md R148, 30_encoding.md R150, 40_data_movement.md R164, 40_data_movement.md
R173, 41_integer_arithmetic.md R202, 42_multiply_divide.md R251, 42_multiply_divide.md R254, 47_program_control.md
R355, 48_system_control.md R390, 48_system_control.md R396) -/
def Obligations.WordsDecode : Prop :=
  decode 0x76FF#16 [] = .instr (.moveq 3#3 0xFF#8) ∧
  decode 0x43E8#16 [0x0008#16] = .instr (.lea 1#3 (.disp 0#3 8#16)) ∧
  decode 0xD258#16 [] = .instr (.addToDnW 1#3 (.postinc 0#3)) ∧
  decode 0x4C01#16 [0x2C03#16] = .instr (.mulsL 0#1 2#3 true 0#7 3#3 (.dn 1#3)) ∧
  decode 0x51C8#16 [0xFFFC#16] = .instr (.dbcc 1#4 0#3 0xFFFC#16) ∧
  decode 0x4E7B#16 [0x0801#16] = .instr (.movecToCr 0#4 0x801#12) ∧
  decode 0xF800#16 [0x01C0#16, 0x2700#16] = .instr (.lpstop 0x2700#16) ∧
  decode 0x4AFB#16 [] = .illegal ∧ decode 0xA000#16 [] = .lineA ∧ decode 0xF800#16 [0#16] = .lineF

/-- Decoding an encoded instruction gives it back. For every well-formed instruction, with every operand at every
value, its words, operation word and extension words together, followed by any further words decode to it: no bit of
an encoding is dropped, and what follows an instruction does not change it. And in every state whose memory holds
these words from the pc on, the instruction at the pc is that instruction. (30_encoding.md, 30_encoding.md R100,
30_encoding.md R101, 30_encoding.md R118, 30_encoding.md R125, 30_encoding.md R153) -/
def Obligations.DecodeOfEncode : Prop :=
  (∀ i : Instr, i.ok = true → ∃ (w : Word) (ws : List Word), encode i = w :: ws ∧
    ∀ rest : List Word, decode w (ws ++ rest) = .instr i) ∧
  ∀ (s : State) (i : Instr), i.ok = true →
    (∀ k w, (encode i)[k]? = some w → s.codeWord (s.ctx.pc + BitVec.ofNat 32 (2 * k)) = w) →
    fetchDecode s = .instr i

/-- Every decoded instruction is well formed. Whatever words are given to the decoder, an instruction it answers is
well formed: its operands are in the sets the spec admits for it and its immediates fit their size. (30_encoding.md
R130, 30_encoding.md R150) -/
def Obligations.DecodeGivesWellFormed : Prop :=
  ∀ (w : Word) (ws : List Word) (i : Instr), decode w ws = .instr i → i.ok = true

/-- Every step keeps the invariant of good states. In every state that meets the invariant (memory and the list of
stale addresses in canonical form; the unimplemented bits of SR, SFC and DFC zero in every context; Master Context_0
running whenever it is READY), a step that gives a next state gives one that meets it. The canonical form of the two
lists is the representation the model chose; the other clauses are R26, R27, R32 and R43. (20_memory.md R60,
10_state.md R26, 10_state.md R27, 10_state.md R32, 10_state.md R43) -/
def Obligations.StepKeepsInv : Prop :=
  ∀ s t : State, s.Inv → step s = .next t → t.Inv

/-- The machine after reset meets the invariant. State.reset meets the invariant that every step keeps.
(70_reset_and_hazards.md R501, 10_state.md R27) -/
def Obligations.ResetHasInv : Prop :=
  State.reset.Inv

/-- The values the spec gives for reset. State.reset: SR of Master Context_0 is 0x2700 and its VBR 0; SSP and pc are
the long words memory holds at 0 and 4; context 0 runs, READY, the CPU running; contexts 1 to 4 are HALTED; no context
is halted by JTAG. (The contents of memory, and so the two long words, are the model's choice: log 8.)
(70_reset_and_hazards.md R501, 70_reset_and_hazards.md R503) -/
def Obligations.ResetValues : Prop :=
  State.reset.ctx.sr = 0x2700#16 ∧ State.reset.ctx.vbr = 0#32 ∧
  State.reset.ctx.ssp = State.reset.readAt 0 .l ∧ State.reset.ctx.pc = State.reset.readAt 4 .l ∧
  State.reset.cur = 0 ∧ State.reset.ctx.run = .ready ∧ State.reset.cpu = .running ∧ State.reset.mark = .none ∧
  (∀ j : Fin 5, j ≠ 0 → State.reset.ctxs[j.val].run = .halted) ∧
  ∀ j : Fin 5, State.reset.ctxs[j.val].jtagHalt = false

/-- A reset does not change memory. The reset event leaves memory as it was, whatever the state, also when the reading
of its two vectors fails. (70_reset_and_hazards.md R504) -/
def Obligations.ResetKeepsMemory : Prop :=
  ∀ s : State, (hostReset s).mem = s.mem

/-- What a reset event leaves. A reset leaves context 0 running and READY, the CPU running, no mark, every jtag_halt
flag clear. With the default RESET_STATE, and the two reset vectors readable, context 0 has SR = 0x2700, VBR = 0, SSP
and pc the long words at the addresses of the two reset vectors, and every other register a free value of its own.
With a supplied RESET_STATE it has those registers, their unimplemented bits cleared. Each other context has its
CTX_INIT in the same way, with its run state, or, without one, is HALTED with every register free. FCR is a free value
in 0..4. That the unimplemented bits of a supplied set are cleared and its JTAG flag is off, that context 0 is then
READY whatever the set says, and that another context's run state is taken as given are inferences of the model (log
31). That no byte is stale (log 48), that a plain extended MOVEC register is a free value (R46, U14: log 21) and the
order in which free values are drawn are the model's choice; that the condition codes of context 0 are 0 is R501's
default, which R502 says to treat as unspecified. (70_reset_and_hazards.md R501, 70_reset_and_hazards.md R502,
70_reset_and_hazards.md R503, 10_state.md R44, 10_state.md R46, 93_implementation_defined.md) -/
def Obligations.ResetLoadsVectors : Prop :=
  ∀ s : State,
    let drawn : Nat → Ctx := fun k =>
      { d := Vector.ofFn fun i : Fin 8 => s.free (k + i.val), a := Vector.ofFn fun i : Fin 7 => s.free (k + 8 + i.val)
        usp := s.free (k + 15), ssp := s.free (k + 16), pc := s.free (k + 17)
        sr := ((s.free (k + 18)).setWidth 16) &&& srImplemented, vbr := s.free (k + 19)
        sfc := fcMask s.params (s.free (k + 20)), dfc := fcMask s.params (s.free (k + 21))
        run := .halted, jtagHalt := false }
    let supplied : Ctx → Ctx := fun c =>
      { c with sr := c.sr &&& srImplemented, sfc := fcMask s.params c.sfc, dfc := fcMask s.params c.dfc
               jtagHalt := false }
    let before : Nat → Nat := fun j => 22 * ((s.resetCtx.toList.drop 1).take (j - 1)).countP Option.isNone
    let plain : BitVec 12 × ExtReg → Bool := fun e => e.2 matches .plain _
    let own := before 5 + 1 + s.extRegs.countP plain
    let sspAt : Long := (s.params.vec.resetSsp ++ 0#2 : BitVec 10).setWidth 32
    let pcAt : Long := (s.params.vec.resetPc ++ 0#2 : BitVec 10).setWidth 32
    (s.resetCtx[0] = none → readable s sspAt .l = true ∧ readable s pcAt .l = true) →
    let t := hostReset s
    t.cur = 0 ∧ t.cpu = .running ∧ t.mark = .none ∧ t.stale = [] ∧
    (s.resetCtx[0] = none → t.ctx = { drawn own with
      ssp := s.readAt sspAt.toNat .l, pc := s.readAt pcAt.toNat .l, sr := 0x2700#16, vbr := 0#32, run := .ready }) ∧
    (∀ c, s.resetCtx[0] = some c → t.ctx = { supplied c with run := .ready }) ∧
    (∀ j : Fin 5, j ≠ 0 →
      (s.resetCtx[j.val] = none → t.ctxs[j.val] = drawn (before j.val)) ∧
      (∀ c, s.resetCtx[j.val] = some c → t.ctxs[j.val] = supplied c)) ∧
    t.fcr.val = (s.free (before 5)).toNat % 5 ∧
    t.extRegs.length = s.extRegs.length ∧
    (∀ (n : Nat) (code : BitVec 12), s.extRegs[n]? = some (code, ExtReg.fcr) → t.extRegs[n]? = some (code, ExtReg.fcr)) ∧
    ∀ (n : Nat) (code : BitVec 12) (v : Long), s.extRegs[n]? = some (code, ExtReg.plain v) →
      t.extRegs[n]? = some (code, ExtReg.plain (s.free (before 5 + 1 + (s.extRegs.take n).countP plain)))

/-- An instruction changes no register of another context. When an instruction other than TRAPX gives a next state,
every context but the one that ran it holds the registers it held; its run state too, unless the instruction is STOP.
(10_state.md R41, 49_trapping.md R428, 48_system_control.md R395) -/
def Obligations.OtherContextsUntouched : Prop :=
  ∀ (i : Instr) (s t : State), (∀ v, i ≠ .trapx v) → exec i s = .next t → ∀ j : Fin 5, j ≠ s.cur →
    t.ctxs[j.val] = { s.ctxs[j.val] with run := t.ctxs[j.val].run } ∧
    ((∀ imm, i ≠ .stop imm) → t.ctxs[j.val].run = s.ctxs[j.val].run)

/-- No instruction of user mode changes a system register. An instruction executed in user mode that gives a next
state leaves VBR, SFC, DFC of its context, the extended registers and the state of the CPU as they were; and unless it
has entered supervisor state by an exception, also SSP and every bit of SR above the condition codes.
(60_exceptions.md R480, 48_system_control.md R380, 60_exceptions.md R460) -/
def Obligations.UserModeConfined : Prop :=
  ∀ (i : Instr) (s t : State), srS s.ctx.sr = false → exec i s = .next t →
    t.ctxs[s.cur.val].vbr = s.ctx.vbr ∧ t.ctxs[s.cur.val].sfc = s.ctx.sfc ∧ t.ctxs[s.cur.val].dfc = s.ctx.dfc ∧
    t.extRegs = s.extRegs ∧ t.cpu = s.cpu ∧
    (srS t.ctxs[s.cur.val].sr = false →
      t.ctxs[s.cur.val].ssp = s.ctx.ssp ∧ ∀ n, 5 ≤ n → t.ctxs[s.cur.val].sr.getLsbD n = s.ctx.sr.getLsbD n)

/-- Only a reset leaves LPSTOPPED. In a machine that is LPSTOPPED, a step whose host events hold no reset leaves it
LPSTOPPED, with no mark set, and every context with the registers it had: interrupts do not wake it. A reset event
always leaves the CPU running. (48_system_control.md R396, 70_reset_and_hazards.md R516) -/
def Obligations.LpStoppedUntilReset : Prop :=
  (∀ (s : State) (batch : List HostEvent) (rest : List (List HostEvent)), s.cpu = .lpStopped → s.mark = .none →
    s.events = batch :: rest → .reset ∉ batch →
    ∃ t, step s = .next t ∧ t.cpu = .lpStopped ∧ t.mark = .none ∧
      ∀ j : Fin 5, t.ctxs[j.val] =
        { s.ctxs[j.val] with run := t.ctxs[j.val].run, jtagHalt := t.ctxs[j.val].jtagHalt }) ∧
  (∀ s : State, s.cpu = .lpStopped → s.mark = .none → s.events = [] → step s = .next s) ∧
  ∀ s : State, (applyEvent s .reset).cpu = .running

/-- Terminal marks stop every step, and a fault in an exception entry sets one. After the events of a step, a machine
marked Faulted or DoubleFault answers the step with that fault; events other than a reset keep the mark. When any
access of an exception entry faults, the ones before it having succeeded, the entry ends in the mark DoubleFault: in
the four-word frame the pushes of the Format/Offset word, the saved pc and SR, in the six-word frame before them the
push of the instruction address, and after the pushes the read of the vector. (70_reset_and_hazards.md R516,
60_exceptions.md R455, 60_exceptions.md R456, 60_exceptions.md R460, 60_exceptions.md R463, 60_exceptions.md R465) -/
def Obligations.MarksStop : Prop :=
  (∀ (s : State) (kind : MemFault) (a pc : Long), (deliver s).mark = .faulted kind a pc →
    step s = .fault (.memory kind a pc)) ∧
  (∀ s : State, (deliver s).mark = .doubleFault → step s = .fault .doubleFault) ∧
  (∀ (s : State) (e : HostEvent), e ≠ .reset → (applyEvent s e).mark = s.mark) ∧
  ∀ (s : State) (k : Byte) (spc : Long) (ipc : Option Long) (level : Option (BitVec 3)) (e : Exc),
    let top := if ipc.isSome then s.ctx.ssp - 4#32 else s.ctx.ssp
    let pushes : List (Long × Size) := (if ipc.isSome then [(top, .l)] else []) ++
      [(top - 2#32, .w), (top - 6#32, .l), (top - 8#32, .w)]
    (∀ n a sz, pushes[n]? = some (a, sz) → (∀ p ∈ pushes.take n, writable s p.1 p.2 = true) →
      writeCheck s.params a sz = some (.exc e) →
      ∃ t, takeEntry (enterException k spc ipc level) s = .next t ∧ t.mark = .doubleFault) ∧
    ((∀ p ∈ pushes, writable s p.1 p.2 = true) → accessCheck s.params (vectorAddr s k) .l = some (.exc e) →
      ∃ t, takeEntry (enterException k spc ipc level) s = .next t ∧ t.mark = .doubleFault)

/-- What exception entry leaves. Taking an exception by vector k with saved pc spc, and for the six-word format the
instruction address ipc: S is set, T1 and T0 cleared, the mask is that of an interrupt or unchanged, the condition
codes are unchanged; SSP falls by 8 or 12; the frame holds SR as it was, spc, the Format/Offset word, and ipc; the pc
is the long word at VBR + 4k; every data and address register but SSP, USP, VBR, SFC, DFC and every byte outside the
frame are unchanged. The SR stacked is the word of SR_LAYOUT. For a frame that lies in memory that can be written and
is no rom, whose bytes ADDR_BITS tells apart from one another and from the vector. (60_exceptions.md R452,
60_exceptions.md R455, 60_exceptions.md R456, 60_exceptions.md R460, 10_state.md R27, 10_state.md R29) -/
def Obligations.ExceptionFrame : Prop :=
  ∀ (s : State) (k : Byte) (spc : Long) (ipc : Option Long) (level : Option (BitVec 3)),
    entryReady s k ipc.isSome = true →
    let n : Nat := if ipc.isSome then 12 else 8
    let sp := s.ctx.ssp - BitVec.ofNat 32 n
    n ≤ s.ctx.ssp.toNat → noRom s sp n = true →
    n ≤ 2 ^ s.params.addrBits →
    (∀ i < 4, ∀ j < n, busAddr s.params ((vectorAddr s k).toNat + i) ≠ busAddr s.params (sp.toNat + j)) →
    ∃ t, takeEntry (enterException k spc ipc level) s = .next t ∧
      srS t.ctx.sr = true ∧ srT1 t.ctx.sr = false ∧ srT0 t.ctx.sr = false ∧
      srMask t.ctx.sr = level.getD (srMask s.ctx.sr) ∧ t.ctx.ccr = s.ctx.ccr ∧
      t.ctx.ssp = sp ∧ t.ctx.pc = s.readAt (vectorAddr s k).toNat .l ∧
      t.readAt sp.toNat .w = s.srWord.setWidth 32 ∧
      t.readAt (sp + 2#32).toNat .l = spc ∧
      t.readAt (sp + 6#32).toNat .w =
        (if ipc.isSome then 0x2000#32 else 0#32) ||| (BitVec.ofNat 32 (4 * k.toNat)) ∧
      (∀ a, ipc = some a → t.readAt (sp + 8#32).toNat .l = a) ∧
      sameMemoryOutside s t sp n ∧
      t.ctx.d = s.ctx.d ∧ t.ctx.a = s.ctx.a ∧ t.ctx.usp = s.ctx.usp ∧ t.ctx.vbr = s.ctx.vbr ∧
      t.ctx.sfc = s.ctx.sfc ∧ t.ctx.dfc = s.ctx.dfc ∧ t.ctx.run = s.ctx.run ∧
      (∀ j : Fin 5, j ≠ s.cur → t.ctxs[j.val] = s.ctxs[j.val])

/-- RTE undoes TRAP. TRAP #v in either mode, then RTE in the state it leaves: the context has all the registers it
had, with the pc after the TRAP; the frame is gone from the stack. For a frame in writable memory that is no rom and
whose bytes ADDR_BITS tells apart, an SR_LAYOUT with its six fields at six places, and SR without trace bits where
TRACE_POLICY refuses them. (60_exceptions.md R461, 49_trapping.md R424, 48_system_control.md R394, 10_state.md R27,
10_state.md R28) -/
def Obligations.TrapThenRte : Prop :=
  ∀ (s : State) (v : BitVec 4), s.ctx.sr &&& srImplemented = s.ctx.sr → s.params.srLayout.distinct = true → srWritable s s.srWord = true →
    entryReady s (2#4 ++ v) false = true → 8 ≤ s.ctx.ssp.toNat → 8 ≤ 2 ^ s.params.addrBits → noRom s (s.ctx.ssp - 8#32) 8 = true →
    ∃ t u, exec (.trap v) s = .next t ∧ exec .rte t = .next u ∧
      u.ctx = { s.ctx with pc := s.ctx.pc + 2#32 }

/-- Every privileged instruction traps in user mode. Executed in user mode, each privileged instruction takes the
privilege violation, from the state it began in: nothing else has changed, and the saved pc is its own address. LPSTOP
does so once its second word has been fetched, which is part of its operation code. (48_system_control.md R380,
60_exceptions.md R481, 60_exceptions.md R457) -/
def Obligations.PrivilegedFormsTrap : Prop :=
  ∀ (s : State) (imm : Word) (dst : EA) (r : BitVec 3) (xr : BitVec 4) (code : BitVec 12) (d : Bool)
    (rsv : BitVec 11), srS s.ctx.sr = false → entryReady s s.params.vec.privilege false = true →
    (∀ i ∈ [Instr.andiToSr imm, .eoriToSr imm, .oriToSr imm, .moveFromSr dst, .moveToUsp r, .moveFromUsp r,
      .movecFromCr xr code, .movecToCr xr code, .movesB xr d rsv dst, .movesW xr d rsv dst, .movesL xr d rsv dst,
      .rte, .stop imm, .sleep, .reset],
      exec i s = .next (s.entered s.params.vec.privilege s.ctx.pc none none)) ∧
    (fetchable s 0 1 = true →
      exec (.lpstop imm) s = .next (s.entered s.params.vec.privilege s.ctx.pc none none))

/-- Interrupts: what wakes, what is accepted, and what is masked. With no event pending and a context that can run: a
request is accepted only if it is for the running context and its level is above the mask of that context (or is 7
under IRQ_NMI7), no other eligible request for it has a higher level, and none of the same level a lower vector
number. Accepting it in Standard Interrupt Mode is exception entry with a four-word frame, the pc of the next
instruction saved and the mask raised to its level; in the other mode the pc goes to the handler and SR and the stack
are unchanged. The request is then no longer pending. When no pending request is above the mask of its context (and
none is 7 under IRQ_NMI7), a step with no event pending does what it would do if nothing were pending, and the
requests stay pending: nothing is woken and none is accepted. Before that, unless the CPU is LPSTOPPED, an eligible
request for any context ends the STOPPED state of the CPU and makes its context READY if it was NOT_READY; nothing
else of any context changes, a HALTED one is not woken, and when a context was woken the scheduler has given the CPU
to a READY one, Master Context_0 if it is READY. Two things are the model's, not the rule's: that an acceptance
without a frame flushes the pipeline is an inference (log 36), and that requests are held in a list of pending ones,
from which the accepted one is taken, is its choice (log 23). (60_exceptions.md R471, 60_exceptions.md R470,
60_exceptions.md R460, 48_system_control.md R396, 10_state.md R43) -/
def Obligations.InterruptRule : Prop :=
  (∀ (s : State) (r : IrqReq), s.mark = .none → s.events = [] → canRun (wake s) = true →
    pickIrq (wake s) = some r →
    let w := wake s
    let u : State := { w with irqs := w.irqs.filter fun q => q ≠ r }
    r ∈ s.irqs ∧ r.ctx = w.cur ∧
    ((srMask w.ctx.sr).toNat < r.level.toNat ∨ (s.params.irqNmi7 = true ∧ r.level = 7#3)) ∧
    (∀ q ∈ s.irqs, q.ctx = w.cur → eligible w q = true → q.level.toNat < r.level.toNat ∨
      (q.level = r.level ∧ r.vector.toNat ≤ q.vector.toNat)) ∧
    (s.params.stdIntMode[w.cur.val] = true → entryReady u r.vector false = true →
      step s = .next (u.entered r.vector w.ctx.pc none (some r.level))) ∧
    (s.params.stdIntMode[w.cur.val] = false → readable u (vectorAddr u r.vector) .l = true →
      step s = .next (u.flush.withPc (u.readAt (vectorAddr u r.vector).toNat .l)))) ∧
  (∀ s : State, s.events = [] →
    (∀ r ∈ s.irqs, (srMask s.ctxs[r.ctx.val].sr).toNat ≥ r.level.toNat ∧
      (s.params.irqNmi7 = false ∨ r.level ≠ 7#3)) →
    wake s = s ∧ pickIrq s = none ∧
    (s.mark = .none → step s = if canRun s then executeNext exec s else .next s)) ∧
  (∀ s : State, s.cpu = .lpStopped → wake s = s) ∧
  ∀ s : State, s.cpu ≠ .lpStopped →
    let rises : IrqReq → Prop := fun r => (srMask s.ctxs[r.ctx.val].sr).toNat < r.level.toNat ∨
      (s.params.irqNmi7 = true ∧ r.level = 7#3)
    ((∃ r ∈ s.irqs, rises r) → (wake s).cpu = .running) ∧
    ((∀ r ∈ s.irqs, ¬ rises r) → wake s = s) ∧
    (∀ r ∈ s.irqs, rises r → s.ctxs[r.ctx.val].run = .notReady →
      (wake s).ctxs[r.ctx.val] = { s.ctxs[r.ctx.val] with run := .ready } ∧
      (wake s).ctx.run = .ready ∧ ((wake s).ctxs[0].run = .ready → (wake s).cur = 0)) ∧
    (∀ j : Fin 5, (s.ctxs[j.val].run ≠ .notReady ∨ ∀ r ∈ s.irqs, r.ctx = j → ¬ rises r) →
      (wake s).ctxs[j.val] = s.ctxs[j.val]) ∧
    (wake s).irqs = s.irqs ∧ (wake s).mem = s.mem

/-- The alignment of data. With MISALIGN_POLICY = fault, a word or long read or write at an odd address raises
AddressError and changes nothing; a byte access is never an alignment fault; an even address is aligned for a long
word; and with MISALIGN_POLICY = split no access is an alignment fault. Aligned accesses in memory that is backed and
below the top of the address space succeed. (20_memory.md R66) -/
def Obligations.MisalignedAccess : Prop :=
  Params.default.misalign = .fault ∧
  (∀ (s : State) (a v : Long), a.getLsbD 0 = true → s.params.misalign = .fault → ∀ sz ∈ [Size.w, .l],
    memRead a sz s = .error (.exc (.addressError a)) s ∧ memWrite a sz v s = .error (.exc (.addressError a)) s) ∧
  ∀ (s : State) (a v : Long) (sz : Size), a.toNat + sz.bytes ≤ 2 ^ 32 →
    touchesUnmapped s.params a.toNat sz.bytes = false → touchesDevice s.params a.toNat sz.bytes = false →
    touchesRom s.params a.toNat sz.bytes = false →
    (sz = .b ∨ a.getLsbD 0 = false ∨ s.params.misalign = .split) →
    memRead a sz s = .ok (s.readAt a.toNat sz) s ∧ memWrite a sz v s = .ok () (s.wrote a sz v)

/-- Memory is big-endian and reads back what was written. After a write of v at a, the bytes at a, a+1, … are the
bytes of v, most significant first, every byte that these addresses do not reach is unchanged, and reads of every
width see exactly these bytes. (R64 gives the bytes a write stores, R63 the value a read gives.) (For a machine whose
ADDR_BITS tell the bytes of one operand apart.) (20_memory.md R63, 20_memory.md R64) -/
def Obligations.ReadAfterWrite : Prop :=
  (∀ (s : State) (a v : Long) (sz : Size), sz.bytes ≤ 2 ^ s.params.addrBits → noRom s a sz.bytes = true →
    (∀ j < sz.bytes, (s.wrote a sz v).byteAt (a.toNat + j) = v.extractLsb' (8 * (sz.bytes - 1 - j)) 8) ∧
    sameMemoryOutside s (s.wrote a sz v) a sz.bytes) ∧
  (∀ (s : State) (a : Nat), s.readAt a .b = (s.byteAt a).setWidth 32 ∧
    s.readAt a .w = (s.byteAt a ++ s.byteAt (a + 1)).setWidth 32 ∧
    s.readAt a .l = s.byteAt a ++ s.byteAt (a + 1) ++ s.byteAt (a + 2) ++ s.byteAt (a + 3)) ∧
  ∀ (s : State) (a v : Long) (sz : Size), writable s a sz = true → memWrite a sz v s = .ok () (s.wrote a sz v)

/-- Which fetches succeed, and what the others do. A step whose pc is odd raises AddressError, and one whose operation
word lies at an unmapped address BusError, at the pc and with the pc as the address of the instruction; one in a
device region is refused (R78 declares such regions and gives no behaviour of them; that an access there is refused is
an inference of the model: log 20), and that an unmapped byte comes before a byte of a device, and both before a stale
one, where a word has two of them, is the model's choice (log 53); with PREFETCH_HAZARD = refuse, one that would fetch
an operation word one of whose bytes has been stored since the last pipeline flush is refused. The same holds of each
extension word of the operand of an instruction that begins by reading it, when the words before it could be fetched:
the fault is at the word, nothing has changed, and the saved pc is that of the instruction. R465 calls the second
address of the frame of a fetch fault the faulting pc; that it is the address of the word whose fetch faulted, for an
extension word too, is an inference of the model (log 38). After a NOP no word in plain memory at an even address is
refused. (20_memory.md R67, 20_memory.md R77, 20_memory.md R78, 40_data_movement.md R160, 60_exceptions.md R465,
70_reset_and_hazards.md R512, 00_scope.md R11) -/
def Obligations.StaleFetchRefused : Prop :=
  (∀ s : State, s.mark = .none → s.events = [] → s.irqs = [] → canRun s = true →
    let pc := s.ctx.pc
    (pc.getLsbD 0 = true → endsFaulted s .address pc pc (step s)) ∧
    (pc.getLsbD 0 = false → touchesUnmapped s.params pc.toNat 2 = true → endsFaulted s .bus pc pc (step s)) ∧
    (pc.getLsbD 0 = false → touchesUnmapped s.params pc.toNat 2 = false →
      (touchesDevice s.params pc.toNat 2 = true → step s = .refused .deviceAccess) ∧
      (touchesDevice s.params pc.toNat 2 = false → s.params.prefetch = .refuse →
        (busAddr s.params pc.toNat ∈ s.stale ∨ busAddr s.params (pc.toNat + 1) ∈ s.stale) →
        step s = .refused .prefetchHazard))) ∧
  (∀ (s : State) (r : BitVec 3) (src dst : EA), ∀ row ∈
      [(Instr.addToDnB r src, Size.b),
      (Instr.addToDnW r src, Size.w),
      (Instr.addToDnL r src, Size.l),
      (Instr.subToDnB r src, Size.b),
      (Instr.subToDnW r src, Size.w),
      (Instr.subToDnL r src, Size.l),
      (Instr.andToDnB r src, Size.b),
      (Instr.andToDnW r src, Size.w),
      (Instr.andToDnL r src, Size.l),
      (Instr.orToDnB r src, Size.b),
      (Instr.orToDnW r src, Size.w),
      (Instr.orToDnL r src, Size.l),
      (Instr.cmpB r src, Size.b),
      (Instr.cmpW r src, Size.w),
      (Instr.cmpL r src, Size.l),
      (Instr.tstB src, Size.b),
      (Instr.tstW src, Size.w),
      (Instr.tstL src, Size.l),
      (Instr.moveB src dst, Size.b),
      (Instr.moveW src dst, Size.w),
      (Instr.moveL src dst, Size.l),
      (Instr.moveaW src r, Size.w),
      (Instr.addaW r src, Size.w),
      (Instr.subaW r src, Size.w),
      (Instr.cmpaW r src, Size.w),
      (Instr.chkW r src, Size.w),
      (Instr.moveaL src r, Size.l),
      (Instr.addaL r src, Size.l),
      (Instr.subaL r src, Size.l),
      (Instr.cmpaL r src, Size.l),
      (Instr.chkL r src, Size.l),
      (Instr.mulsW r src, Size.w),
      (Instr.muluW r src, Size.w),
      (Instr.divsW r src, Size.w),
      (Instr.divuW r src, Size.w),
      (Instr.moveToCcr src, Size.w)],
    ∀ j < src.extWords row.2, fetchable s 0 j = true →
    let a := extAddr s.ctx.pc j
    (a.getLsbD 0 = true → endsFaulted s .address a s.ctx.pc (exec row.1 s)) ∧
    (a.getLsbD 0 = false → touchesUnmapped s.params a.toNat 2 = true →
      endsFaulted s .bus a s.ctx.pc (exec row.1 s)) ∧
    (a.getLsbD 0 = false → touchesUnmapped s.params a.toNat 2 = false →
      (touchesDevice s.params a.toNat 2 = true → exec row.1 s = .refused .deviceAccess) ∧
      (touchesDevice s.params a.toNat 2 = false → s.params.prefetch = .refuse →
        (busAddr s.params a.toNat ∈ s.stale ∨ busAddr s.params (a.toNat + 1) ∈ s.stale) →
        exec row.1 s = .refused .prefetchHazard))) ∧
  ∀ (s t : State) (a : Long), exec .nop s = .next t → untraced s = true → a.getLsbD 0 = false →
    touchesUnmapped s.params a.toNat 2 = false → touchesDevice s.params a.toNat 2 = false → fetchCheck t a = none

/-- Carry, borrow and overflow are those of the integers. For operands of every size and either value of X: the result
of an addition is the integer sum modulo 2^n, carry is that sum reaching 2^n, overflow is the signed sum leaving the
signed range; for a subtraction likewise with borrow; N is the top bit of the result and Z its being zero.
(00_scope.md R14) -/
def Obligations.AddSubArithmetic : Prop :=
  ∀ (sz : Size) (s d : Long) (x : Bool),
    (addN sz s d x).res.toNat = (unsignedOf sz s + unsignedOf sz d + x.toNat) % 2 ^ sz.bits ∧
    ((addN sz s d x).c = true ↔ 2 ^ sz.bits ≤ unsignedOf sz s + unsignedOf sz d + x.toNat) ∧
    ((addN sz s d x).v = true ↔
      ¬ (-2 ^ (sz.bits - 1) ≤ signedOf sz s + signedOf sz d + (x.toNat : Int) ∧
        signedOf sz s + signedOf sz d + (x.toNat : Int) ≤ 2 ^ (sz.bits - 1) - 1)) ∧
    ((addN sz s d x).v = (msb sz s == msb sz d && msb sz (addN sz s d x).res != msb sz d)) ∧
    ((subN sz s d x).res.toNat : Int) =
      ((unsignedOf sz d : Int) - unsignedOf sz s - (x.toNat : Int)) % 2 ^ sz.bits ∧
    ((subN sz s d x).c = true ↔ (unsignedOf sz d : Int) - unsignedOf sz s - (x.toNat : Int) < 0) ∧
    ((subN sz s d x).v = true ↔
      ¬ (-2 ^ (sz.bits - 1) ≤ signedOf sz d - signedOf sz s - (x.toNat : Int) ∧
        signedOf sz d - signedOf sz s - (x.toNat : Int) ≤ 2 ^ (sz.bits - 1) - 1)) ∧
    ((subN sz s d x).v = (msb sz s != msb sz d && msb sz (subN sz s d x).res != msb sz d)) ∧
    ∀ t : Sum, (sumFlags sz t).n = msb sz t.res ∧ ((sumFlags sz t).z = true ↔ t.res = 0#32)

/-- Result and flags of each two-operand operation. On operands of size n: ADD, SUB, ADDX, SUBX, NEG, NEGX give the
sums and differences of R14 with X = C = carry or borrow (ADDX, SUBX, NEGX keep Z when the result is zero, others set
Z from it); AND, OR, EOR, NOT give the bitwise result with N and Z from it, V and C clear, X kept.
(41_integer_arithmetic.md R202, 41_integer_arithmetic.md R206, 41_integer_arithmetic.md R207, 41_integer_arithmetic.md
R211, 41_integer_arithmetic.md R213, 41_integer_arithmetic.md R214, 43_logic.md R271, 43_logic.md R272, 43_logic.md
R274, 43_logic.md R276, 43_logic.md R278) -/
def Obligations.AluMeaning : Prop :=
  ∀ (sz : Size) (s d : Long) (f : Ccr),
    (∀ row ∈ [(aluAdd sz s d f, addN sz s d false, true), (aluSub sz s d f, subN sz s d false, true),
        (aluNeg sz s d f, subN sz d 0#32 false, true), (aluAddx sz s d f, addN sz s d f.x, f.z),
        (aluSubx sz s d f, subN sz s d f.x, f.z), (aluNegx sz s d f, subN sz d 0#32 f.x, f.z)],
      row.1.1 = row.2.1.res ∧ row.1.2.x = row.2.1.c ∧ row.1.2.c = row.2.1.c ∧ row.1.2.v = row.2.1.v ∧
      row.1.2.n = msb sz row.2.1.res ∧ row.1.2.z = (row.2.1.res == 0#32 && row.2.2)) ∧
    ∀ row ∈ [(aluAnd sz s d f, s &&& d), (aluOr sz s d f, s ||| d), (aluEor sz s d f, s ^^^ d),
        (aluNot sz s d f, ~~~d)],
      (∀ i < 32, row.1.1.getLsbD i = (decide (i < sz.bits) && row.2.getLsbD i)) ∧
      row.1.2.x = f.x ∧ row.1.2.n = row.2.getLsbD (sz.bits - 1) ∧ (row.1.2.z = true ↔ row.1.1 = 0#32) ∧
      row.1.2.v = false ∧ row.1.2.c = false

/-- The closed forms of the shifts. For an operand of size n and a count of 0 to 63: ASL and LSL give the operand
times 2^count modulo 2^n, LSR its quotient by 2^count, ASR its signed quotient rounded down; C is the last bit shifted
out (0 for count 0) and X is C (kept for count 0); V is clear but for ASL, where it says that the top bit changed at
some step: for 0 < count < n, that the top count+1 bits are not all equal, for count ≥ n, that the operand is not 0; N
and Z are those of the result. (44_shift_rotate.md R294, 44_shift_rotate.md R295, 44_shift_rotate.md R296,
44_shift_rotate.md R297, 44_shift_rotate.md R298) -/
def Obligations.ShiftClosedForms : Prop :=
  ∀ (sz : Size) (v : Long) (n : Nat) (f : Ccr), trunc sz v = v → n ≤ 63 →
    (∀ k ∈ [Shift.asl, .lsl],
      (shiftBy k sz n v f).1.toNat = (v.toNat * 2 ^ n) % 2 ^ sz.bits ∧
      (shiftBy k sz n v f).2.c = (decide (0 < n ∧ n ≤ sz.bits) && v.getLsbD (sz.bits - n))) ∧
    (shiftBy .lsr sz n v f).1.toNat = v.toNat / 2 ^ n ∧
    (shiftBy .lsr sz n v f).2.c = (decide (0 < n ∧ n ≤ sz.bits) && v.getLsbD (n - 1)) ∧
    signedOf sz (shiftBy .asr sz n v f).1 = signedOf sz v / 2 ^ n ∧
    trunc sz (shiftBy .asr sz n v f).1 = (shiftBy .asr sz n v f).1 ∧
    (shiftBy .asr sz n v f).2.c = (decide (0 < n) && v.getLsbD (min (n - 1) (sz.bits - 1))) ∧
    ((shiftBy .asl sz n v f).2.v = true ↔
      if n < sz.bits then ∃ j, j ≤ n ∧ v.getLsbD (sz.bits - 1 - j) ≠ msb sz v else v ≠ 0#32) ∧
    (∀ k ∈ [Shift.lsl, .lsr, .asr], (shiftBy k sz n v f).2.v = false) ∧
    ∀ k ∈ [Shift.asl, .lsl, .lsr, .asr],
      (shiftBy k sz n v f).2.x = (if n = 0 then f.x else (shiftBy k sz n v f).2.c) ∧
      (shiftBy k sz n v f).2.n = msb sz (shiftBy k sz n v f).1 ∧
      ((shiftBy k sz n v f).2.z = true ↔ (shiftBy k sz n v f).1 = 0#32)

/-- The closed forms of the rotates. For an operand of size n and any count: ROL and ROR rotate its n bits by the
count modulo n, leave X, and for a positive count C is bit 0, respectively the top bit, of the result (0 for count 0);
ROXL and ROXR rotate the n+1 bits of X and the operand by the count modulo n+1, X being the top bit, and C is the new
X; V is clear, N and Z are those of the result. (44_shift_rotate.md R294, 44_shift_rotate.md R299, 44_shift_rotate.md
R300, 44_shift_rotate.md R301, 44_shift_rotate.md R302) -/
def Obligations.RotateClosedForms : Prop :=
  ∀ (sz : Size) (v : Long) (n : Nat) (f : Ccr), trunc sz v = v →
    (∀ i < sz.bits,
      (shiftBy .rol sz n v f).1.getLsbD ((i + n) % sz.bits) = v.getLsbD i ∧
      (shiftBy .ror sz n v f).1.getLsbD i = v.getLsbD ((i + n) % sz.bits)) ∧
    (∀ i ≤ sz.bits,
      let bit : Long → Bool → Nat → Bool := fun u x j => if j = sz.bits then x else u.getLsbD j
      bit (shiftBy .roxl sz n v f).1 (shiftBy .roxl sz n v f).2.x ((i + n) % (sz.bits + 1)) = bit v f.x i ∧
      bit (shiftBy .roxr sz n v f).1 (shiftBy .roxr sz n v f).2.x i = bit v f.x ((i + n) % (sz.bits + 1))) ∧
    (shiftBy .rol sz n v f).2.x = f.x ∧ (shiftBy .ror sz n v f).2.x = f.x ∧
    (shiftBy .rol sz n v f).2.c = (decide (0 < n) && (shiftBy .rol sz n v f).1.getLsbD 0) ∧
    (shiftBy .ror sz n v f).2.c = (decide (0 < n) && msb sz (shiftBy .ror sz n v f).1) ∧
    (shiftBy .roxl sz n v f).2.c = (shiftBy .roxl sz n v f).2.x ∧
    (shiftBy .roxr sz n v f).2.c = (shiftBy .roxr sz n v f).2.x ∧
    ∀ k ∈ [Shift.rol, .ror, .roxl, .roxr],
      trunc sz (shiftBy k sz n v f).1 = (shiftBy k sz n v f).1 ∧ (shiftBy k sz n v f).2.v = false ∧
      (shiftBy k sz n v f).2.n = msb sz (shiftBy k sz n v f).1 ∧
      ((shiftBy k sz n v f).2.z = true ↔ (shiftBy k sz n v f).1 = 0#32)

/-- CMP2 and CHK2, and what their test means. Where the bounds are ordered as unsigned values, out says that the value
is below the lower or above the upper bound as unsigned values; where they are ordered as signed values, the same of
signed values; equal says that it is one of the bounds. CMP2 and CHK2 compare a general register with the pair of
bounds at their operand, an address register as 32 bits with the bounds sign-extended. With bounds ordered as signed
or as unsigned values: Z says it equals a bound, C that it is outside, N and V are free, X kept; CHK2 then takes the
CHK exception when it is outside. With bounds ordered in neither way, both of which can be read, the instruction is
refused (R516, U13, D30; that both are read first is an inference of the model: log 15). A nonzero reserved bit is
refused (Q9). (41_integer_arithmetic.md R220, 41_integer_arithmetic.md R221, 49_trapping.md R423, 30_encoding.md R151,
70_reset_and_hazards.md R516, 93_implementation_defined.md) -/
def Obligations.BoundsForms : Prop :=
  (∀ (sz : Size) (x lb ub : Long),
    (unsignedOf sz lb ≤ unsignedOf sz ub → (boundsOut sz x lb ub = true ↔
      unsignedOf sz x < unsignedOf sz lb ∨ unsignedOf sz ub < unsignedOf sz x)) ∧
    (signedOf sz lb ≤ signedOf sz ub → (boundsOut sz x lb ub = true ↔
      signedOf sz x < signedOf sz lb ∨ signedOf sz ub < signedOf sz x)) ∧
    (boundsEqual sz x lb ub = true ↔
      unsignedOf sz x = unsignedOf sz lb ∨ unsignedOf sz x = unsignedOf sz ub)) ∧
  (∀ (s : State) (xr : BitVec 4) (rsv : BitVec 11) (ea : EA), untraced s = true → fetchable s 0 1 = true → ∀ row ∈
      [(Instr.cmp2B xr rsv ea, Instr.chk2B xr rsv ea, Size.b),
      (Instr.cmp2W xr rsv ea, Instr.chk2W xr rsv ea, Size.w),
      (Instr.cmp2L xr rsv ea, Instr.chk2L xr rsv ea, Size.l)],
    let sz := row.2.2
    let a := addrOf s ea 1
    let isA := xr.getLsbD 3
    let m := if isA then Size.l else sz
    let bound : Long → Long := fun v => if isA then sext sz v else v
    let lb := bound (s.readAt a.toNat sz)
    let ub := bound (s.readAt (a + BitVec.ofNat 32 sz.bytes).toNat sz)
    let x := s.ctx.getR xr
    let w := 2 + ea.extWords sz
    let ordered : Prop := unsignedOf m lb ≤ unsignedOf m ub ∨ signedOf m lb ≤ signedOf m ub
    let out := boundsOut m x lb ub
    let t := (s.drew 2).withCcr
      { x := s.ctx.ccr.x, n := s.freeBit 0, z := boundsEqual m x lb ub, v := s.freeBit 1, c := out }
    (rsv ≠ 0#11 → exec row.1 s = .refused .reservedBits ∧ exec row.2.1 s = .refused .reservedBits) ∧
    (rsv = 0#11 → addressReady s ea 1 = true → readable s a sz = true →
      readable s (a + BitVec.ofNat 32 sz.bytes) sz = true →
      (¬ ordered → exec row.1 s = .refused .unorderedBounds ∧ exec row.2.1 s = .refused .unorderedBounds) ∧
      (ordered →
        exec row.1 s = .next (s.finished w t) ∧
        (out = false → exec row.2.1 s = .next (s.finished w t.flush)) ∧
        (out = true → entryReady t.flush 6#8 true = true →
          exec row.2.1 s = .next (t.flush.entered 6#8 (s.after w) (some s.ctx.pc) none)))))

/-- ADD, SUB, AND, OR, EOR between a data register and an operand. ADD, SUB, AND, OR ea,Dn of every size, with an
operand that can be read: the next state is that of the source operand's register update, the low bits of Dn replaced
by the result, the condition codes of the operation, and the pc past the instruction; all else is unchanged. ADD, SUB,
AND, OR, EOR Dn,ea of every size, with an operand that can be read and written: it is replaced, at the one address its
mode gives, by the result, the mode's register update is made once, the condition codes are those of the operation,
the pc is past the instruction; all else is unchanged. (41_integer_arithmetic.md R202, 41_integer_arithmetic.md R207,
43_logic.md R272, 43_logic.md R274, 43_logic.md R276) -/
def Obligations.AluToRegister : Prop :=
  (∀ (s : State) (r : BitVec 3) (src : EA), untraced s = true → ∀ row ∈
      [(Instr.addToDnB r src, aluAdd .b, Size.b),
      (Instr.addToDnW r src, aluAdd .w, Size.w),
      (Instr.addToDnL r src, aluAdd .l, Size.l),
      (Instr.subToDnB r src, aluSub .b, Size.b),
      (Instr.subToDnW r src, aluSub .w, Size.w),
      (Instr.subToDnL r src, aluSub .l, Size.l),
      (Instr.andToDnB r src, aluAnd .b, Size.b),
      (Instr.andToDnW r src, aluAnd .w, Size.w),
      (Instr.andToDnL r src, aluAnd .l, Size.l),
      (Instr.orToDnB r src, aluOr .b, Size.b),
      (Instr.orToDnW r src, aluOr .w, Size.w),
      (Instr.orToDnL r src, aluOr .l, Size.l)],
    let sz := row.2.2
    let p := placeOf s src sz 0
    sourceReady s src sz 0 = true →
    let out := row.2.1 (valueAt s sz p.loc) (trunc sz (s.ctx.getD r)) s.ctx.ccr
    exec row.1 s = .next (s.finished (1 + src.extWords sz) (((s.bump p).withD r sz out.1).withCcr out.2))) ∧
  (∀ (s : State) (r : BitVec 3) (dst : EA), untraced s = true → ∀ row ∈
      [(Instr.addToEaB r dst, aluAdd .b, Size.b),
      (Instr.addToEaW r dst, aluAdd .w, Size.w),
      (Instr.addToEaL r dst, aluAdd .l, Size.l),
      (Instr.subToEaB r dst, aluSub .b, Size.b),
      (Instr.subToEaW r dst, aluSub .w, Size.w),
      (Instr.subToEaL r dst, aluSub .l, Size.l),
      (Instr.andToEaB r dst, aluAnd .b, Size.b),
      (Instr.andToEaW r dst, aluAnd .w, Size.w),
      (Instr.andToEaL r dst, aluAnd .l, Size.l),
      (Instr.orToEaB r dst, aluOr .b, Size.b),
      (Instr.orToEaW r dst, aluOr .w, Size.w),
      (Instr.orToEaL r dst, aluOr .l, Size.l),
      (Instr.eorB r dst, aluEor .b, Size.b),
      (Instr.eorW r dst, aluEor .w, Size.w),
      (Instr.eorL r dst, aluEor .l, Size.l)],
    let sz := row.2.2
    let p := placeOf s dst sz 0
    modifyReady s dst sz 0 = true →
    let out := row.2.1 (trunc sz (s.ctx.getD r)) (valueAt s sz p.loc) s.ctx.ccr
    exec row.1 s = .next (s.finished (1 + dst.extWords sz) (((s.storeAt sz out.1 p.loc).bump p).withCcr out.2)))

/-- The immediate, quick and one-operand operations. ADDI, SUBI, ANDI, ORI, EORI; ADDQ, SUBQ; NEG, NEGX, NOT, each of
every size, on an operand that can be read and written: it is replaced, at the one address its mode gives, by the
result of the operation on the source (the immediate, 1 to 8 with a field of 0 meaning 8), the mode's register update
is made once, the condition codes are those of the operation, the pc is past the instruction; all else is unchanged.
ADDQ and SUBQ of an address register change all its 32 bits and no condition code. (41_integer_arithmetic.md R204,
41_integer_arithmetic.md R205, 41_integer_arithmetic.md R209, 41_integer_arithmetic.md R210, 41_integer_arithmetic.md
R213, 41_integer_arithmetic.md R214, 43_logic.md R273, 43_logic.md R275, 43_logic.md R277, 43_logic.md R278) -/
def Obligations.ModifyForms : Prop :=
  ∀ (s : State) (r y : BitVec 3) (b : Byte) (w : Word) (l : Long) (dst : EA), untraced s = true →
    let quick : Long := if r = 0#3 then 8#32 else r.setWidth 32
    (∀ row ∈
      [(Instr.oriB b dst, aluOr .b, b.setWidth 32, 1, Size.b),
      (Instr.oriW w dst, aluOr .w, w.setWidth 32, 1, Size.w),
      (Instr.oriL l dst, aluOr .l, l, 2, Size.l),
      (Instr.andiB b dst, aluAnd .b, b.setWidth 32, 1, Size.b),
      (Instr.andiW w dst, aluAnd .w, w.setWidth 32, 1, Size.w),
      (Instr.andiL l dst, aluAnd .l, l, 2, Size.l),
      (Instr.subiB b dst, aluSub .b, b.setWidth 32, 1, Size.b),
      (Instr.subiW w dst, aluSub .w, w.setWidth 32, 1, Size.w),
      (Instr.subiL l dst, aluSub .l, l, 2, Size.l),
      (Instr.addiB b dst, aluAdd .b, b.setWidth 32, 1, Size.b),
      (Instr.addiW w dst, aluAdd .w, w.setWidth 32, 1, Size.w),
      (Instr.addiL l dst, aluAdd .l, l, 2, Size.l),
      (Instr.eoriB b dst, aluEor .b, b.setWidth 32, 1, Size.b),
      (Instr.eoriW w dst, aluEor .w, w.setWidth 32, 1, Size.w),
      (Instr.eoriL l dst, aluEor .l, l, 2, Size.l),
      (Instr.addqB r dst, aluAdd .b, quick, 0, Size.b),
      (Instr.addqW r dst, aluAdd .w, quick, 0, Size.w),
      (Instr.addqL r dst, aluAdd .l, quick, 0, Size.l),
      (Instr.subqB r dst, aluSub .b, quick, 0, Size.b),
      (Instr.subqW r dst, aluSub .w, quick, 0, Size.w),
      (Instr.subqL r dst, aluSub .l, quick, 0, Size.l),
      (Instr.negB dst, aluNeg .b, 0#32, 0, Size.b),
      (Instr.negW dst, aluNeg .w, 0#32, 0, Size.w),
      (Instr.negL dst, aluNeg .l, 0#32, 0, Size.l),
      (Instr.negxB dst, aluNegx .b, 0#32, 0, Size.b),
      (Instr.negxW dst, aluNegx .w, 0#32, 0, Size.w),
      (Instr.negxL dst, aluNegx .l, 0#32, 0, Size.l),
      (Instr.notB dst, aluNot .b, 0#32, 0, Size.b),
      (Instr.notW dst, aluNot .w, 0#32, 0, Size.w),
      (Instr.notL dst, aluNot .l, 0#32, 0, Size.l)],
      let sz := row.2.2.2.2
      let n := row.2.2.2.1
      let p := placeOf s dst sz n
      fetchable s 0 n = true → modifyReady s dst sz n = true →
      let out := row.2.1 row.2.2.1 (valueAt s sz p.loc) s.ctx.ccr
      exec row.1 s =
        .next (s.finished (1 + n + dst.extWords sz) (((s.storeAt sz out.1 p.loc).bump p).withCcr out.2))) ∧
    ∀ row ∈ [(Instr.addqW r (.an y), s.ctx.getA y + quick),
      (Instr.addqL r (.an y), s.ctx.getA y + quick),
      (Instr.subqW r (.an y), s.ctx.getA y - quick),
      (Instr.subqL r (.an y), s.ctx.getA y - quick)],
      exec row.1 s = .next (s.finished 1 (s.withA y row.2))

/-- CLR, Scc, MOVE from CCR, MOVE from SR. On an operand that can be written, without reading it: CLR of every size
stores 0 and sets N, Z, V, C to 0, 1, 0, 0, X kept; Scc stores a byte of ones or zeros by its condition and changes no
flag; MOVE from CCR stores the five condition codes as a word and changes no flag; MOVE from SR, in supervisor state,
stores SR as SR_LAYOUT shows it. The last two flush the pipeline (R380), and do so before they store, so that their
own stores stay stale: an inference of the model (log 17). (41_integer_arithmetic.md R212, 47_program_control.md R356,
48_system_control.md R380, 48_system_control.md R387, 48_system_control.md R389, 10_state.md R27, 10_state.md R29,
20_memory.md R77) -/
def Obligations.WriteOnlyForms : Prop :=
  ∀ (s : State) (dst : EA) (cc : BitVec 4), untraced s = true →
    (∀ row ∈ [(Instr.clrB dst, Size.b), (Instr.clrW dst, Size.w), (Instr.clrL dst, Size.l)],
      let p := placeOf s dst row.2 0
      targetReady s dst row.2 0 = true →
      exec row.1 s = .next (s.finished (1 + dst.extWords row.2) (((s.storeAt row.2 0#32 p.loc).bump p).withCcr
        { s.ctx.ccr with n := false, z := true, v := false, c := false }))) ∧
    (let p := placeOf s dst .b 0
     targetReady s dst .b 0 = true →
     exec (.scc cc dst) s = .next (s.finished (1 + dst.extWords .b)
       ((s.storeAt .b (if Machine.cond cc s.ctx.ccr then 0xFF#32 else 0#32) p.loc).bump p))) ∧
    (let p := placeOf s dst .w 0
     targetReady s dst .w 0 = true →
     exec (.moveFromCcr dst) s = .next (s.finished (1 + dst.extWords .w)
       ((s.flush.storeAt .w (s.ctx.ccr.bits.setWidth 32) p.loc).bump p)) ∧
     (srS s.ctx.sr = true →
      exec (.moveFromSr dst) s = .next (s.finished (1 + dst.extWords .w)
        ((s.flush.storeAt .w (s.srWord.setWidth 32) p.loc).bump p))))

/-- MOVE. MOVE of every size: the source is read and its register updated before the destination is located; the value
is stored there; N and Z are its sign and its being zero, V and C clear, X kept; all else is unchanged. An address
register stored through its own (An)+ or -(An): the spec leaves the value undefined (R72, U8); which of its two
answers is given is the model's choice (log 13): under its parameter `undefined` = free, the default, a free value is
stored and everything else happens as always, under refuse the instruction is refused. (40_data_movement.md R162,
20_memory.md R70, 20_memory.md R71, 20_memory.md R72, 93_implementation_defined.md) -/
def Obligations.MoveForms : Prop :=
  ∀ (s : State) (src dst : EA), untraced s = true → ∀ row ∈
      [(Instr.moveB src dst, Size.b), (Instr.moveW src dst, Size.w), (Instr.moveL src dst, Size.l)],
    let sz := row.2
    let p := placeOf s src sz 0
    let t := s.bump p
    let k := src.extWords sz
    let q := placeOf t dst sz k
    sourceReady s src sz 0 = true → targetReady t dst sz k = true →
    let done : State → Long → State := fun u v => s.finished (1 + k + dst.extWords sz)
      (((u.storeAt sz v q.loc).bump q).withCcr (logicFlags sz v s.ctx.ccr))
    (storesItself src dst = false → exec row.1 s = .next (done t (valueAt s sz p.loc))) ∧
    (storesItself src dst = true → s.params.undefined = .refuse → exec row.1 s = .refused .storesItself) ∧
    (storesItself src dst = true → s.params.undefined = .free → exec row.1 s = .next (done (t.drew 1) (trunc sz (s.free 0))))

/-- MOVEA, ADDA, SUBA, MOVEQ, EXG, LEA, EXT, EXTB, SWAP. The source operand, a word sign-extended, is moved to, added
to or subtracted from an address register, all 32 bits, after the source's own register update; no condition code
changes; all else is unchanged. MOVEQ loads the sign-extended byte; EXG exchanges all 32 bits of two registers; LEA
loads the address its operand has; EXT.W, EXT.L and EXTB.L extend the sign of the low byte, word, byte; SWAP exchanges
the halves. MOVEQ, EXT, EXTB and SWAP set N and Z from the result, clear V and C and keep X; EXG and LEA change no
condition code. (40_data_movement.md R163, 41_integer_arithmetic.md R203, 41_integer_arithmetic.md R208,
40_data_movement.md R164, 40_data_movement.md R172, 40_data_movement.md R173, 41_integer_arithmetic.md R215,
44_shift_rotate.md R304) -/
def Obligations.RegisterForms : Prop :=
  (∀ (s : State) (r : BitVec 3) (src : EA), untraced s = true → ∀ row ∈
      ([(Instr.moveaW src r, (fun _ v => v), Size.w),
      (Instr.addaW r src, (fun a v => a + v), Size.w),
      (Instr.subaW r src, (fun a v => a - v), Size.w),
      (Instr.moveaL src r, (fun _ v => v), Size.l),
      (Instr.addaL r src, (fun a v => a + v), Size.l),
      (Instr.subaL r src, (fun a v => a - v), Size.l)] : List (Instr × (Long → Long → Long) × Size)),
    let sz := row.2.2
    let p := placeOf s src sz 0
    let t := s.bump p
    sourceReady s src sz 0 = true →
    exec row.1 s = .next (s.finished (1 + src.extWords sz)
      (t.withA r (row.2.1 (t.ctx.getA r) (sext sz (valueAt s sz p.loc)))))) ∧
  (∀ (s : State) (r x y : BitVec 3) (d : Byte) (ea : EA), untraced s = true →
    (exec (.moveq r d) s = .next (s.finished 1
      ((s.withD r .l (d.signExtend 32)).withCcr (logicFlags .l (d.signExtend 32) s.ctx.ccr)))) ∧
    (exec (.exgDD x y) s = .next (s.finished 1 ((s.withD x .l (s.ctx.getD y)).withD y .l (s.ctx.getD x)))) ∧
    (exec (.exgAA x y) s = .next (s.finished 1 ((s.withA x (s.ctx.getA y)).withA y (s.ctx.getA x)))) ∧
    (exec (.exgDA x y) s = .next (s.finished 1 ((s.withD x .l (s.ctx.getA y)).withA y (s.ctx.getD x)))) ∧
    (addressReady s ea 0 = true →
      exec (.lea r ea) s = .next (s.finished (1 + ea.extWords .l) (s.withA r (addrOf s ea 0)))) ∧
    (∀ row ∈ [(Instr.extW r, Size.b, Size.w), (Instr.extL r, Size.w, Size.l), (Instr.extbL r, Size.b, Size.l)],
      let v := sext row.2.1 (s.ctx.getD r)
      exec row.1 s = .next (s.finished 1 ((s.withD r row.2.2 v).withCcr (logicFlags row.2.2 v s.ctx.ccr)))) ∧
    (let v : Long := (s.ctx.getD r).extractLsb' 0 16 ++ (s.ctx.getD r).extractLsb' 16 16
     exec (.swap r) s = .next (s.finished 1 ((s.withD r .l v).withCcr (logicFlags .l v s.ctx.ccr)))))

/-- CMP, CMPA, CMPI, CMPM, TST. The compares set N, Z, V, C as the subtraction of the source from the destination does
and keep X; CMPA compares all 32 bits with the source sign-extended; TST sets N and Z from the operand and clears V
and C. Nothing but the condition codes, the pc and the registers of the operands' own modes changes.
(41_integer_arithmetic.md R216, 41_integer_arithmetic.md R217, 41_integer_arithmetic.md R218, 41_integer_arithmetic.md
R219, 43_logic.md R279) -/
def Obligations.CompareForms : Prop :=
  ∀ (s : State) (r x y : BitVec 3) (src : EA) (b : Byte) (w : Word) (l : Long), untraced s = true →
    let flags : Size → Long → Long → Ccr := fun sz v d => { (aluSub sz v d s.ctx.ccr).2 with x := s.ctx.ccr.x }
    (∀ row ∈ [(Instr.cmpB r src, Size.b), (Instr.cmpW r src, Size.w), (Instr.cmpL r src, Size.l)],
      let p := placeOf s src row.2 0
      sourceReady s src row.2 0 = true →
      exec row.1 s = .next (s.finished (1 + src.extWords row.2)
        ((s.bump p).withCcr (flags row.2 (valueAt s row.2 p.loc) (s.ctx.getD r))))) ∧
    (∀ row ∈ [(Instr.cmpaW r src, Size.w), (Instr.cmpaL r src, Size.l)],
      let p := placeOf s src row.2 0
      sourceReady s src row.2 0 = true →
      exec row.1 s = .next (s.finished (1 + src.extWords row.2)
        ((s.bump p).withCcr (flags .l (sext row.2 (valueAt s row.2 p.loc)) ((s.bump p).ctx.getA r))))) ∧
    (∀ row ∈ [(Instr.cmpiB b src, b.setWidth 32, 1, Size.b), (Instr.cmpiW w src, w.setWidth 32, 1, Size.w),
        (Instr.cmpiL l src, l, 2, Size.l)],
      let sz := row.2.2.2
      let n := row.2.2.1
      let p := placeOf s src sz n
      fetchable s 0 n = true → sourceReady s src sz n = true →
      exec row.1 s = .next (s.finished (1 + n + src.extWords sz)
        ((s.bump p).withCcr (flags sz row.2.1 (valueAt s sz p.loc))))) ∧
    (∀ row ∈ [(Instr.cmpmB x y, Size.b), (Instr.cmpmW x y, Size.w), (Instr.cmpmL x y, Size.l)],
      let p := placeOf s (.postinc y) row.2 0
      let t := s.bump p
      let q := placeOf t (.postinc x) row.2 0
      sourceReady s (.postinc y) row.2 0 = true → sourceReady t (.postinc x) row.2 0 = true →
      exec row.1 s = .next (s.finished 1
        ((t.bump q).withCcr (flags row.2 (valueAt s row.2 p.loc) (valueAt t row.2 q.loc))))) ∧
    (∀ row ∈ [(Instr.tstB src, Size.b), (Instr.tstW src, Size.w), (Instr.tstL src, Size.l)],
      let p := placeOf s src row.2 0
      sourceReady s src row.2 0 = true →
      exec row.1 s = .next (s.finished (1 + src.extWords row.2)
        ((s.bump p).withCcr (logicFlags row.2 (valueAt s row.2 p.loc) s.ctx.ccr))))

/-- ADDX and SUBX. ADDX and SUBX of every size: between data registers, or through -(Ay),-(Ax) with the source
decremented and read first; the destination takes the result and the condition codes are those of the operation, Z
only cleared. (41_integer_arithmetic.md R206, 41_integer_arithmetic.md R211, 20_memory.md R71) -/
def Obligations.ExtendedForms : Prop :=
  ∀ (s : State) (x y : BitVec 3), untraced s = true → ∀ row ∈
      ([(Instr.addxB, aluAddx .b, Size.b),
      (Instr.addxW, aluAddx .w, Size.w),
      (Instr.addxL, aluAddx .l, Size.l),
      (Instr.subxB, aluSubx .b, Size.b),
      (Instr.subxW, aluSubx .w, Size.w),
      (Instr.subxL, aluSubx .l, Size.l)] : List ((BitVec 3 → Bool → BitVec 3 → Instr) × Alu × Size)),
    let sz := row.2.2
    (let out := row.2.1 (trunc sz (s.ctx.getD y)) (trunc sz (s.ctx.getD x)) s.ctx.ccr
     exec (row.1 x false y) s = .next (s.finished 1 ((s.withD x sz out.1).withCcr out.2))) ∧
    (let p := placeOf s (.predec y) sz 0
     let t := s.bump p
     let q := placeOf t (.predec x) sz 0
     sourceReady s (.predec y) sz 0 = true → modifyReady t (.predec x) sz 0 = true →
     let out := row.2.1 (valueAt s sz p.loc) (valueAt t sz q.loc) s.ctx.ccr
     exec (row.1 x true y) s = .next (s.finished 1 (((t.storeAt sz out.1 q.loc).bump q).withCcr out.2)))

/-- ABCD, SBCD, NBCD. On operands whose nibbles are digits: ABCD stores the decimal sum of source, destination and X
modulo 100, SBCD destination - source - X and NBCD 0 - destination - X modulo 100; X and C are the decimal carry or
borrow; Z is only cleared; N and V are free (R345). Registers, or -(Ay),-(Ax) with the source first. Where a nibble is
no digit, ABCD and SBCD, between registers or in memory, and NBCD still run: the result byte, the carry in X and C,
and N and V are free values, Z is cleared unless the result is zero; everything else happens as always. (46_bcd.md
R340, 46_bcd.md R341, 46_bcd.md R342, 46_bcd.md R343, 46_bcd.md R344, 46_bcd.md R345) -/
def Obligations.DecimalForms : Prop :=
  (∀ (s : State) (x y : BitVec 3) (dst : EA), untraced s = true →
    let num : Long → Int := fun v => 10 * (v.extractLsb' 4 4).toNat + (v.extractLsb' 0 4).toNat
    let digits : Long → Bool := fun v => decide ((v.extractLsb' 4 4).toNat ≤ 9 ∧ (v.extractLsb' 0 4).toNat ≤ 9)
    let enc : Int → Long := fun k => BitVec.ofInt 32 (k % 100 / 10 * 16 + k % 10)
    let flags : Long → Bool → Ccr := fun v c =>
      { x := c, n := s.freeBit 0, z := v == 0#32 && s.ctx.ccr.z, v := s.freeBit 1, c := c }
    let sum : Long → Long → Int := fun v d => num v + num d + (s.ctx.ccr.x.toNat : Int)
    let diff : Long → Long → Int := fun v d => num d - num v - (s.ctx.ccr.x.toNat : Int)
    (∀ row ∈ ([(Instr.abcd, sum, fun k => decide (99 < k)), (Instr.sbcd, diff, fun k => decide (k < 0))] :
        List ((BitVec 3 → Bool → BitVec 3 → Instr) × (Long → Long → Int) × (Int → Bool))),
      (let k := row.2.1 (trunc .b (s.ctx.getD y)) (trunc .b (s.ctx.getD x))
       digits (trunc .b (s.ctx.getD y)) = true → digits (trunc .b (s.ctx.getD x)) = true →
       exec (row.1 x false y) s = .next (s.finished 1
         (((s.drew 2).withD x .b (enc k)).withCcr (flags (enc k) (row.2.2 k))))) ∧
      (let p := placeOf s (.predec y) .b 0
       let t := s.bump p
       let q := placeOf t (.predec x) .b 0
       let k := row.2.1 (valueAt s .b p.loc) (valueAt t .b q.loc)
       sourceReady s (.predec y) .b 0 = true → modifyReady t (.predec x) .b 0 = true →
       digits (valueAt s .b p.loc) = true → digits (valueAt t .b q.loc) = true →
       exec (row.1 x true y) s = .next (s.finished 1
         ((((t.drew 2).storeAt .b (enc k) q.loc).bump q).withCcr (flags (enc k) (row.2.2 k)))))) ∧
    (let p := placeOf s dst .b 0
     let k := diff (valueAt s .b p.loc) 0#32
     modifyReady s dst .b 0 = true → digits (valueAt s .b p.loc) = true →
     exec (.nbcd dst) s = .next (s.finished (1 + dst.extWords .b)
       ((((s.drew 2).storeAt .b (enc k) p.loc).bump p).withCcr (flags (enc k) (decide (k < 0))))))) ∧
  (∀ (s : State) (x y : BitVec 3) (dst : EA), untraced s = true →
    let digits : Long → Bool := fun v => decide ((v.extractLsb' 4 4).toNat ≤ 9 ∧ (v.extractLsb' 0 4).toNat ≤ 9)
    let res := trunc .b (s.free 0)
    let flags : Ccr := { x := s.freeBit 1, n := s.freeBit 2, z := res == 0#32 && s.ctx.ccr.z, v := s.freeBit 3,
                         c := s.freeBit 1 }
    (¬ (digits (trunc .b (s.ctx.getD y)) = true ∧ digits (trunc .b (s.ctx.getD x)) = true) →
      ∀ i ∈ [Instr.abcd x false y, .sbcd x false y],
        exec i s = .next (s.finished 1 (((s.drew 4).withD x .b res).withCcr flags))) ∧
    (let p := placeOf s (.predec y) .b 0
     let t := s.bump p
     let q := placeOf t (.predec x) .b 0
     sourceReady s (.predec y) .b 0 = true → modifyReady t (.predec x) .b 0 = true →
     ¬ (digits (valueAt s .b p.loc) = true ∧ digits (valueAt t .b q.loc) = true) →
     ∀ i ∈ [Instr.abcd x true y, .sbcd x true y],
       exec i s = .next (s.finished 1 ((((t.drew 4).storeAt .b res q.loc).bump q).withCcr flags))) ∧
    (let p := placeOf s dst .b 0
     modifyReady s dst .b 0 = true → digits (valueAt s .b p.loc) = false →
     exec (.nbcd dst) s = .next (s.finished (1 + dst.extWords .b)
       ((((s.drew 4).storeAt .b res p.loc).bump p).withCcr flags))))

/-- The shifts and rotates. The eight shifts and rotates: on a data register, by the count in the instruction (0 is 8)
or by the low six bits of a data register read before the result is written; on a memory word by one bit. The operand
takes the result and the condition codes are those of the operation; the closed forms of both are statements of their
own. (44_shift_rotate.md R291, 44_shift_rotate.md R292, 44_shift_rotate.md R293, 44_shift_rotate.md R294) -/
def Obligations.ShiftForms : Prop :=
  ∀ (s : State) (k r : BitVec 3) (i : Bool) (dst : EA), untraced s = true →
    let count : Nat := if i then (s.ctx.getD k).toNat % 64 else if k = 0#3 then 8 else k.toNat
    (∀ row ∈
      [(Instr.aslB k i r, Shift.asl, Size.b),
      (Instr.aslW k i r, Shift.asl, Size.w),
      (Instr.aslL k i r, Shift.asl, Size.l),
      (Instr.asrB k i r, Shift.asr, Size.b),
      (Instr.asrW k i r, Shift.asr, Size.w),
      (Instr.asrL k i r, Shift.asr, Size.l),
      (Instr.lslB k i r, Shift.lsl, Size.b),
      (Instr.lslW k i r, Shift.lsl, Size.w),
      (Instr.lslL k i r, Shift.lsl, Size.l),
      (Instr.lsrB k i r, Shift.lsr, Size.b),
      (Instr.lsrW k i r, Shift.lsr, Size.w),
      (Instr.lsrL k i r, Shift.lsr, Size.l),
      (Instr.rolB k i r, Shift.rol, Size.b),
      (Instr.rolW k i r, Shift.rol, Size.w),
      (Instr.rolL k i r, Shift.rol, Size.l),
      (Instr.rorB k i r, Shift.ror, Size.b),
      (Instr.rorW k i r, Shift.ror, Size.w),
      (Instr.rorL k i r, Shift.ror, Size.l),
      (Instr.roxlB k i r, Shift.roxl, Size.b),
      (Instr.roxlW k i r, Shift.roxl, Size.w),
      (Instr.roxlL k i r, Shift.roxl, Size.l),
      (Instr.roxrB k i r, Shift.roxr, Size.b),
      (Instr.roxrW k i r, Shift.roxr, Size.w),
      (Instr.roxrL k i r, Shift.roxr, Size.l)],
      let out := shiftBy row.2.1 row.2.2 count (trunc row.2.2 (s.ctx.getD r)) s.ctx.ccr
      exec row.1 s = .next (s.finished 1 ((s.withD r row.2.2 out.1).withCcr out.2))) ∧
    ∀ row ∈
      [(Instr.aslMem dst, Shift.asl),
      (Instr.asrMem dst, Shift.asr),
      (Instr.lslMem dst, Shift.lsl),
      (Instr.lsrMem dst, Shift.lsr),
      (Instr.rolMem dst, Shift.rol),
      (Instr.rorMem dst, Shift.ror),
      (Instr.roxlMem dst, Shift.roxl),
      (Instr.roxrMem dst, Shift.roxr)],
      let p := placeOf s dst .w 0
      modifyReady s dst .w 0 = true →
      let out := shiftBy row.2 .w 1 (valueAt s .w p.loc) s.ctx.ccr
      exec row.1 s = .next (s.finished (1 + dst.extWords .w) (((s.storeAt .w out.1 p.loc).bump p).withCcr out.2))

/-- MOVEM. MOVEM to memory: at a control address, the registers of the mask in the order D0 to A7 are stored upward
from it; through -(An), in the order A7 to D0 downward from An, An itself as its value decremented once, and An ends
at the last address. No condition code changes. MOVEM from memory loads the registers of the mask in the order D0 to
A7, a word sign-extended, upward from a control address computed before any load, or from An, which then ends past the
last operand; an An that is itself in the list ends there too, or at the value fetched for it plus the operand length,
by MOVEM_SELF_LOAD; that a word is sign-extended before the length is added is the model's choice (log 50). No
condition code changes. (40_data_movement.md R165, 40_data_movement.md R166, 40_data_movement.md R167,
40_data_movement.md R168, 40_data_movement.md R169) -/
def Obligations.MovemForms : Prop :=
  (∀ (s : State) (mask : Word) (n : BitVec 3) (ea : EA), untraced s = true → fetchable s 0 1 = true →
    let regs : List (BitVec 4) := ((List.range 16).filter fun k => mask.getLsbD k).map (BitVec.ofNat 4)
    ∀ row ∈ [((fun e => Instr.movemStoreW mask e), Size.w), ((fun e => Instr.movemStoreL mask e), Size.l)],
    let nb := BitVec.ofNat 32 row.2.bytes
    (let a := addrOf s ea 1
     (∀ m, ea ≠ .predec m) → addressReady s ea 1 = true → slotsWritable s row.2 a nb regs.length = true →
     exec (row.1 ea) s = .next (s.finished (2 + ea.extWords row.2) (s.storedUp row.2 regs a))) ∧
    (let a := s.ctx.getA n
     slotsWritable s row.2 (a - nb) (-nb) regs.length = true →
     exec (row.1 (.predec n)) s = .next (s.finished 2
       ((s.storedDown row.2 n (a - nb) (regs.map (fun k => 15#4 - k)) a).withA n
         (a - BitVec.ofNat 32 regs.length * nb))))) ∧
  (∀ (s : State) (mask : Word) (n : BitVec 3) (ea : EA), untraced s = true → fetchable s 0 1 = true →
    let regs : List (BitVec 4) := ((List.range 16).filter fun k => mask.getLsbD k).map (BitVec.ofNat 4)
    ∀ row ∈ [((fun e => Instr.movemLoadW mask e), Size.w), ((fun e => Instr.movemLoadL mask e), Size.l)],
    let nb := BitVec.ofNat 32 row.2.bytes
    (let a := addrOf s ea 1
     (∀ m, ea ≠ .postinc m) → addressReady s ea 1 = true → slotsReadable s row.2 a nb regs.length = true →
     exec (row.1 ea) s = .next (s.finished (2 + ea.extWords row.2) (s.loadedUp row.2 none regs a))) ∧
    (let a := s.ctx.getA n
     let t := s.loadedUp row.2 (some (1#1 ++ n)) regs a
     slotsReadable s row.2 a nb regs.length = true →
     ((s.params.movemSelfLoad = .finalAddress ∨ 1#1 ++ n ∉ regs) →
       exec (row.1 (.postinc n)) s = .next (s.finished 2 (t.withA n (a + BitVec.ofNat 32 regs.length * nb)))) ∧
     (∀ j, regs[j]? = some (1#1 ++ n) → s.params.movemSelfLoad = .fetchedPlusSize →
       exec (row.1 (.postinc n)) s = .next (s.finished 2 (t.withA n
         (sext row.2 (s.readAt (a + BitVec.ofNat 32 j * nb).toNat row.2) + nb))))))

/-- MOVEM saves and restores. MOVEM.L list,-(An) and then MOVEM.L (An)+,list with the same registers (the mask
reversed, as R165 says), An not among them, in writable memory that is no rom and below the initial An without
wrapping, its bytes told apart by ADDR_BITS: every register of the context is as before, and the pc past the two
instructions. (40_data_movement.md R165, 40_data_movement.md R166, 40_data_movement.md R167, 40_data_movement.md R169)
-/
def Obligations.MovemRoundTrip : Prop :=
  ∀ (s : State) (mask : Word) (n : BitVec 3), untraced s = true → fetchable s 0 1 = true →
    mask.getLsbD (8 + n.toNat) = false →
    let down : Word := BitVec.ofFnLE fun k : Fin 16 => mask.getLsbD (15 - k.val)
    let count := ((List.range 16).filter fun k => mask.getLsbD k).length
    4 * count ≤ (s.ctx.getA n).toNat → 4 * count ≤ 2 ^ s.params.addrBits → noRom s (s.ctx.getA n - BitVec.ofNat 32 (4 * count)) (4 * count) = true →
    slotsWritable s .l (s.ctx.getA n - 4#32) (-4#32) count = true →
    ∃ t, exec (.movemStoreL down (.predec n)) s = .next t ∧
      (fetchable t 0 1 = true → ∃ u, exec (.movemLoadL mask (.postinc n)) t = .next u ∧
        u.ctx = { s.ctx with pc := s.ctx.pc + 8#32 })

/-- MOVEP. MOVEP stores the two or four bytes of Dx, most significant first, at every second address from Ay plus the
displacement, or loads them from there into the low word or the whole of Dx; no other byte is accessed and no
condition code changes. (40_data_movement.md R171) -/
def Obligations.MovepForms : Prop :=
  ∀ (s : State) (x y : BitVec 3) (d : Word), untraced s = true → fetchable s 0 1 = true →
    let a := s.ctx.getA y + d.signExtend 32
    let at_ : Nat → Byte := fun j => s.byteAt (a + BitVec.ofNat 32 (2 * j)).toNat
    let v := s.ctx.getD x
    (slotsWritable s .b a 2#32 2 = true → exec (.movepStoreW x y d) s =
      .next (s.finished 2 (s.storedAlternate [v.extractLsb' 8 8, v.extractLsb' 0 8] a))) ∧
    (slotsWritable s .b a 2#32 4 = true → exec (.movepStoreL x y d) s =
      .next (s.finished 2 (s.storedAlternate
        [v.extractLsb' 24 8, v.extractLsb' 16 8, v.extractLsb' 8 8, v.extractLsb' 0 8] a))) ∧
    (slotsReadable s .b a 2#32 2 = true → exec (.movepLoadW x y d) s =
      .next (s.finished 2 (s.withD x .w ((at_ 0 ++ at_ 1).setWidth 32)))) ∧
    (slotsReadable s .b a 2#32 4 = true → exec (.movepLoadL x y d) s =
      .next (s.finished 2 (s.withD x .l (at_ 0 ++ at_ 1 ++ at_ 2 ++ at_ 3))))

/-- PEA, LINK, UNLK. PEA pushes the address its operand has with the old SP. LINK, on any register but A7, pushes the
register, loads it with the new SP and adds the displacement, a word sign-extended, to SP. UNLK, on any register but
A7, loads the register from the long word it points to and SP with the address after it. No condition code changes. On
A7 the spec gives LINK and UNLK no meaning: both are refused (U12). (40_data_movement.md R174, 40_data_movement.md
R175, 40_data_movement.md R176) -/
def Obligations.StackForms : Prop :=
  ∀ (s : State) (ea : EA) (r : BitVec 3) (w : Word) (l : Long), untraced s = true →
    (addressReady s ea 0 = true → pushable s .l = true →
      exec (.pea ea) s = .next (s.finished (1 + ea.extWords .l) (s.pushed .l (addrOf s ea 0)))) ∧
    (∀ row ∈ [(Instr.linkW r w, 1, w.signExtend 32), (Instr.linkL r l, 2, l)],
      (r ≠ 7#3 → fetchable s 0 row.2.1 = true → pushable s .l = true →
        exec row.1 s = .next (s.finished (1 + row.2.1)
          (((s.pushed .l (s.ctx.getA r)).withA r (s.ctx.sp - 4#32)).withSp (s.ctx.sp - 4#32 + row.2.2)))) ∧
      (r = 7#3 → exec row.1 s = .refused .linkA7)) ∧
    (r ≠ 7#3 → readable s (s.ctx.getA r) .l = true →
      exec (.unlk r) s = .next (s.finished 1
        ((s.withA r (s.readAt (s.ctx.getA r).toNat .l)).withSp (s.ctx.getA r + 4#32)))) ∧
    (r = 7#3 → exec (.unlk r) s = .refused .unlkA7)

/-- MULS and MULU. MULS.W and MULU.W leave the 32-bit signed or unsigned product of two words in Dn. The long forms,
with zero reserved bits, leave the low 32 bits of the product in Dl with V set when the product does not fit, or all
64 bits in Dh and Dl with V clear. N and Z are those of the product left, C is clear, X kept. For the 64-bit form with
Dh = Dl the spec leaves the register open and advises to refuse (U9); which of its two answers is given is the model's
choice (log 14): under its parameter `undefined` = free, the default, the register, N, Z and V are free, under refuse
the instruction is refused. A nonzero reserved bit of the special word is refused (Q9). (42_multiply_divide.md R251,
42_multiply_divide.md R252, 42_multiply_divide.md R253, 42_multiply_divide.md R254, 42_multiply_divide.md R255,
30_encoding.md R151, 93_implementation_defined.md) -/
def Obligations.MultiplyForms : Prop :=
  (∀ (s : State) (r l h : BitVec 3) (src : EA), untraced s = true →
    (∀ row ∈ [(Instr.mulsW r src, fun a b => BitVec.ofInt 32 (signedOf .w a * signedOf .w b)),
        (Instr.muluW r src, fun a b => BitVec.ofNat 32 (unsignedOf .w a * unsignedOf .w b))],
      let p := placeOf s src .w 0
      let v : Long := row.2 (valueAt s .w p.loc) (s.ctx.getD r)
      sourceReady s src .w 0 = true →
      exec row.1 s = .next (s.finished (1 + src.extWords .w)
        (((s.bump p).withD r .l v).withCcr (logicFlags .l v s.ctx.ccr)))) ∧
    ∀ row ∈ [((fun q => Instr.mulsL 0#1 l q 0#7 h src), (fun a b => a.toInt * b.toInt),
          fun k : Int => decide (k < -2 ^ 31 ∨ 2 ^ 31 ≤ k)),
        ((fun q => Instr.muluL 0#1 l q 0#7 h src), (fun a b => (a.toNat : Int) * b.toNat),
          fun k => decide (2 ^ 32 ≤ k))],
      let p := placeOf s src .l 1
      let t := s.bump p
      let k := row.2.1 (valueAt s .l p.loc) (s.ctx.getD l)
      let lo := BitVec.ofInt 32 k
      let w := 2 + src.extWords .l
      fetchable s 0 1 = true → sourceReady s src .l 1 = true →
      exec (row.1 false) s = .next (s.finished w ((t.withD l .l lo).withCcr
        { s.ctx.ccr with n := lo.getLsbD 31, z := lo == 0#32, v := row.2.2 k, c := false })) ∧
      (h ≠ l → exec (row.1 true) s = .next (s.finished w
        (((t.withD h .l ((BitVec.ofInt 64 k).extractLsb' 32 32)).withD l .l lo).withCcr
          { s.ctx.ccr with n := (BitVec.ofInt 64 k).getLsbD 63, z := BitVec.ofInt 64 k == 0#64, v := false,
                           c := false }))) ∧
      (h = l → s.params.undefined = .refuse → exec (row.1 true) s = .refused .productRegister) ∧
      (h = l → s.params.undefined = .free → exec (row.1 true) s = .next (s.finished w
        (((t.drew 4).withD l .l (s.free 0)).withCcr
          { s.ctx.ccr with n := s.freeBit 1, z := s.freeBit 2, v := s.freeBit 3, c := false })))) ∧
  ∀ (s : State) (r15 : BitVec 1) (l h : BitVec 3) (q : Bool) (rsv : BitVec 7) (src : EA), fetchable s 0 1 = true →
    (r15 ≠ 0#1 ∨ rsv ≠ 0#7) →
    exec (.mulsL r15 l q rsv h src) s = .refused .reservedBits ∧ exec (.muluL r15 l q rsv h src) s = .refused .reservedBits

/-- DIVS.W and DIVU.W. For the quotient q and remainder rem of the dividend Dn by a nonzero word (dividend = q *
divisor + rem, rem smaller in magnitude than the divisor and of the dividend's sign or zero): when q fits in 16 bits
Dn takes rem and q, N and Z are those of q, V and C clear; when it does not, V is set, C clear, N and Z free, and Dn
unchanged. A zero divisor takes the zero-divide exception after the source operand's register update, with C clear and
N, Z, V free in the pushed SR, Dn unchanged. (42_multiply_divide.md R256, 42_multiply_divide.md R257,
42_multiply_divide.md R258, 60_exceptions.md R454) -/
def Obligations.DivideWordForms : Prop :=
  ∀ (s : State) (r : BitVec 3) (src : EA), untraced s = true → ∀ row ∈
      ([(Instr.divsW r src, (fun v : Long => signedOf .w v), (fun d : Long => d.toInt), (-2 ^ 15 : Int), (2 ^ 15 : Int)),
       (Instr.divuW r src, (fun v => (unsignedOf .w v : Int)), (fun d => (d.toNat : Int)), 0, 2 ^ 16)] :
        List (Instr × (Long → Int) × (Long → Int) × Int × Int)),
    let p := placeOf s src .w 0
    let t := s.bump p
    let w := 1 + src.extWords .w
    let dv := row.2.1 (valueAt s .w p.loc)
    let dd := row.2.2.1 (s.ctx.getD r)
    sourceReady s src .w 0 = true →
    (∀ q rem : Int, dd = q * dv + rem → rem.natAbs < dv.natAbs → 0 ≤ rem * dd →
      (row.2.2.2.1 ≤ q → q < row.2.2.2.2 → exec row.1 s = .next (s.finished w
        ((t.withD r .l (BitVec.ofInt 16 rem ++ BitVec.ofInt 16 q)).withCcr
          { s.ctx.ccr with n := (BitVec.ofInt 16 q).getLsbD 15, z := decide (q = 0), v := false, c := false }))) ∧
      (¬ (row.2.2.2.1 ≤ q ∧ q < row.2.2.2.2) → exec row.1 s = .next (s.finished w ((t.drew 2).withCcr
        { s.ctx.ccr with n := s.freeBit 0, z := s.freeBit 1, v := true, c := false })))) ∧
    (dv = 0 →
      let u := (t.drew 3).withCcr { s.ctx.ccr with n := s.freeBit 1, z := s.freeBit 2, v := s.freeBit 0, c := false }
      entryReady u s.params.vec.zeroDivide true = true →
      exec row.1 s = .next (u.entered s.params.vec.zeroDivide (s.after w) (some s.ctx.pc) none))

/-- DIVS.L, DIVSL.L, DIVU.L, DIVUL.L. With zero reserved bits, for the quotient and remainder of Dq, or of the 64 bits
Dr:Dq, by a nonzero long word: when the quotient fits in 32 bits Dr takes the remainder (unless it is Dq) and Dq the
quotient, N and Z those of the quotient, V and C clear; when it does not, V is set, C clear, N and Z free, no register
changed. A zero divisor takes the zero-divide exception, no data register changed. The 64-bit form with Dr = Dq is
refused (Q8). A nonzero reserved bit of the special word is refused (Q9). (42_multiply_divide.md R256,
42_multiply_divide.md R259, 42_multiply_divide.md R260, 42_multiply_divide.md R261, 42_multiply_divide.md R251,
30_encoding.md R151) -/
def Obligations.DivideLongForms : Prop :=
  (∀ (s : State) (q r : BitVec 3) (src : EA), untraced s = true → fetchable s 0 1 = true → ∀ row ∈
      ([((fun quad => Instr.divsL 0#1 q quad 0#7 r src), (fun v : Long => v.toInt),
          (fun quad hi lo => if quad then (hi ++ lo).toInt else lo.toInt), (-2 ^ 31 : Int), (2 ^ 31 : Int)),
        ((fun quad => Instr.divuL 0#1 q quad 0#7 r src), (fun v => (v.toNat : Int)),
          (fun quad hi lo => if quad then ((hi ++ lo).toNat : Int) else (lo.toNat : Int)), 0, 2 ^ 32)] :
        List ((Bool → Instr) × (Long → Int) × (Bool → Long → Long → Int) × Int × Int)),
    let p := placeOf s src .l 1
    let t := s.bump p
    let w := 2 + src.extWords .l
    let dv := row.2.1 (valueAt s .l p.loc)
    (r = q → exec (row.1 true) s = .refused .divQuadSameRegister) ∧
    (sourceReady s src .l 1 = true → ∀ quad : Bool, (quad = true → r ≠ q) →
      let dd := row.2.2.1 quad (s.ctx.getD r) (s.ctx.getD q)
      (∀ quo rem : Int, dd = quo * dv + rem → rem.natAbs < dv.natAbs → 0 ≤ rem * dd →
        (row.2.2.2.1 ≤ quo → quo < row.2.2.2.2 → exec (row.1 quad) s = .next (s.finished w
          (((if r = q then t else t.withD r .l (BitVec.ofInt 32 rem)).withD q .l (BitVec.ofInt 32 quo)).withCcr
            { s.ctx.ccr with n := (BitVec.ofInt 32 quo).getLsbD 31, z := decide (quo = 0), v := false,
                             c := false }))) ∧
        (¬ (row.2.2.2.1 ≤ quo ∧ quo < row.2.2.2.2) → exec (row.1 quad) s = .next (s.finished w
          ((t.drew 2).withCcr
            { s.ctx.ccr with n := s.freeBit 0, z := s.freeBit 1, v := true, c := false })))) ∧
      (dv = 0 →
        let u := (t.drew 3).withCcr
          { s.ctx.ccr with n := s.freeBit 1, z := s.freeBit 2, v := s.freeBit 0, c := false }
        entryReady u s.params.vec.zeroDivide true = true →
        exec (row.1 quad) s = .next (u.entered s.params.vec.zeroDivide (s.after w) (some s.ctx.pc) none)))) ∧
  ∀ (s : State) (r15 : BitVec 1) (q r : BitVec 3) (quad : Bool) (rsv : BitVec 7) (src : EA), fetchable s 0 1 = true →
    (r15 ≠ 0#1 ∨ rsv ≠ 0#7) →
    exec (.divsL r15 q quad rsv r src) s = .refused .reservedBits ∧
    exec (.divuL r15 q quad rsv r src) s = .refused .reservedBits

/-- BTST, BCHG, BCLR, BSET, TAS. The bit number, from the instruction or from a data register, counts modulo 32 in a
data register and modulo 8 in memory. Z is set when the bit was 0, the other condition codes are kept; BCHG, BCLR,
BSET then invert, clear or set that bit and leave every other bit. TAS sets N and Z from the byte, clears V and C,
keeps X, and sets bit 7 of the byte. (45_bit_manipulation.md R321, 45_bit_manipulation.md R322, 45_bit_manipulation.md
R323, 45_bit_manipulation.md R324, 45_bit_manipulation.md R325, 45_bit_manipulation.md R326, 45_bit_manipulation.md
R327) -/
def Obligations.BitForms : Prop :=
  ∀ (s : State) (num : Byte) (r : BitVec 3) (ea : EA), untraced s = true →
    let sz : Size := match ea with
      | .dn _ => .l
      | _ => .b
    let after : Nat → Nat → Nat → Option (Bool → Bool) → State := fun words k n change =>
      let p := placeOf s ea sz k
      let v := valueAt s sz p.loc
      let i := n % sz.bits
      let t := match change with
        | none => s
        | some g => s.storeAt sz (BitVec.ofFnLE fun j : Fin 32 => if j.val = i then g (v.getLsbD i) else v.getLsbD j) p.loc
      s.finished words ((t.bump p).withCcr { s.ctx.ccr with z := !v.getLsbD i })
    (∀ row ∈ ([(Instr.bchg num ea, Instr.bchgDn r ea, fun b => !b), (Instr.bclr num ea, Instr.bclrDn r ea, fun _ => false),
        (Instr.bset num ea, Instr.bsetDn r ea, fun _ => true)] : List (Instr × Instr × (Bool → Bool))),
      (fetchable s 0 1 = true → modifyReady s ea sz 1 = true →
        exec row.1 s = .next (after (2 + ea.extWords .b) 1 num.toNat (some row.2.2))) ∧
      (modifyReady s ea sz 0 = true →
        exec row.2.1 s = .next (after (1 + ea.extWords .b) 0 (s.ctx.getD r).toNat (some row.2.2)))) ∧
    (fetchable s 0 1 = true → sourceReady s ea sz 1 = true →
      exec (.btst num ea) s = .next (after (2 + ea.extWords .b) 1 num.toNat none)) ∧
    (sourceReady s ea sz 0 = true →
      exec (.btstDn r ea) s = .next (after (1 + ea.extWords .b) 0 (s.ctx.getD r).toNat none)) ∧
    (let p := placeOf s ea .b 0
     let v := valueAt s .b p.loc
     modifyReady s ea .b 0 = true →
     exec (.tas ea) s = .next (s.finished (1 + ea.extWords .b)
       (((s.storeAt .b (v ||| 0x80#32) p.loc).bump p).withCcr (logicFlags .b v s.ctx.ccr))))

/-- The sixteen conditions; Bcc, BRA, DBcc. The condition codes 0 to 15 are T, F, HI, LS, CC, CS, NE, EQ, VC, VS, PL,
MI, GE, LT, GT, LE with the formulas of the table of R350; each odd one is the negation of the even one before it.
Each conditional branch goes to the address of its operation word plus 2 plus the displacement exactly when its
condition holds, and else past its words; BRA always goes. No register, condition code or byte of memory changes. DBcc
whose condition holds only goes on. Else the low word of Dn falls by 1, its high word and the condition codes
unchanged; when it was 0 the instruction goes on, else the pc is the address of the operation word plus 2 plus the
displacement. (47_program_control.md R350, 47_program_control.md R351, 47_program_control.md R352,
47_program_control.md R353, 47_program_control.md R355) -/
def Obligations.BranchForms : Prop :=
  (∀ f : Ccr,
    (List.range 16).map (fun k => Machine.cond (BitVec.ofNat 4 k) f) =
      [true, false, !f.c && !f.z, f.c || f.z, !f.c, f.c, !f.z, f.z, !f.v, f.v, !f.n, f.n,
        (f.n && f.v) || (!f.n && !f.v), (f.n && !f.v) || (!f.n && f.v),
        (f.n && f.v && !f.z) || (!f.n && !f.v && !f.z), f.z || (f.n && !f.v) || (!f.n && f.v)] ∧
    ∀ k : BitVec 3, Machine.cond (k ++ 1#1) f = !Machine.cond (k ++ 0#1) f) ∧
  (∀ (s : State) (d : Disp), untraced s = true →
    let f := s.ctx.ccr
    let t := s.ctx.pc + 2#32 + (match d with
      | .byte b => b.signExtend 32
      | .word w => w.signExtend 32
      | .long l => l)
    (∀ row ∈
      [(Instr.bhi d, !f.c && !f.z),
      (Instr.bls d, f.c || f.z),
      (Instr.bcc d, !f.c),
      (Instr.bcs d, f.c),
      (Instr.bne d, !f.z),
      (Instr.beq d, f.z),
      (Instr.bvc d, !f.v),
      (Instr.bvs d, f.v),
      (Instr.bpl d, !f.n),
      (Instr.bmi d, f.n),
      (Instr.bge d, (f.n && f.v) || (!f.n && !f.v)),
      (Instr.blt d, (f.n && !f.v) || (!f.n && f.v)),
      (Instr.bgt d, (f.n && f.v && !f.z) || (!f.n && !f.v && !f.z)),
      (Instr.ble d, f.z || (f.n && !f.v) || (!f.n && f.v))],
      (row.2 = true → fetchable s 0 d.exts.length = true → exec row.1 s = .next (s.withPc t)) ∧
      (row.2 = false → exec row.1 s = .next (s.withPc (s.after (1 + d.exts.length))))) ∧
    (fetchable s 0 d.exts.length = true → exec (.bra d) s = .next (s.withPc t))) ∧
  (∀ (s : State) (cc : BitVec 4) (r : BitVec 3) (d : Word), untraced s = true →
    let low : Word := (s.ctx.getD r).setWidth 16
    let t := s.withD r .w ((low - 1#16).setWidth 32)
    (Machine.cond cc s.ctx.ccr = true → exec (.dbcc cc r d) s = .next (s.withPc (s.after 2))) ∧
    (Machine.cond cc s.ctx.ccr = false → low = 0#16 → exec (.dbcc cc r d) s = .next (t.withPc (s.after 2))) ∧
    (Machine.cond cc s.ctx.ccr = false → low ≠ 0#16 → fetchable s 0 1 = true →
      exec (.dbcc cc r d) s = .next (t.withPc (s.ctx.pc + 2#32 + d.signExtend 32))))

/-- BSR, JMP, JSR, RTS, RTD, RTR, NOP. JMP goes to the address its operand has. JSR computes it with the old SP,
pushes the address of the next instruction and goes there. BSR pushes the address of the next instruction and goes to
the operation word's address plus 2 plus the displacement; its displacement words are fetched after the push (an
inference of the model from R11: log 42), so where the push has changed one of them (PREFETCH_HAZARD = coherent) the
word it left counts. RTS goes to the long word at SP and frees it; RTD also adds its displacement to SP; RTR takes the
condition codes from the low five bits of the word at SP, the pc from the long word after it, and leaves every other
bit of SR. NOP only advances the pc and flushes the pipeline. (00_scope.md R11, 20_memory.md R77,
47_program_control.md R354, 47_program_control.md R357, 47_program_control.md R358, 47_program_control.md R359,
47_program_control.md R360, 47_program_control.md R361, 47_program_control.md R362) -/
def Obligations.CallAndReturnForms : Prop :=
  (∀ (s : State) (ea : EA) (d : Disp), untraced s = true →
    (addressReady s ea 0 = true → exec (.jmp ea) s = .next (s.withPc (addrOf s ea 0))) ∧
    (addressReady s ea 0 = true → pushable s .l = true →
      exec (.jsr ea) s = .next ((s.pushed .l (s.after (1 + ea.extWords .l))).withPc (addrOf s ea 0))) ∧
    (let t := s.pushed .l (s.after (1 + d.exts.length))
     pushable s .l = true → fetchable t 0 d.exts.length = true →
     let word : Nat → Word → Word := fun k w =>
       if t.codeWord (extAddr s.ctx.pc k) = s.codeWord (extAddr s.ctx.pc k) then w else t.codeWord (extAddr s.ctx.pc k)
     exec (.bsr d) s = .next (t.withPc (s.ctx.pc + 2#32 + (match d with
       | .byte b => b.signExtend 32
       | .word w => (word 0 w).signExtend 32
       | .long l => word 0 (l.extractLsb' 16 16) ++ word 1 (l.extractLsb' 0 16)))))) ∧
  (∀ (s : State) (d : Word), untraced s = true →
    let sp := s.ctx.sp
    (readable s sp .l = true →
      exec .rts s = .next ((s.withSp (sp + 4#32)).withPc (s.readAt sp.toNat .l)) ∧
      (fetchable s 0 1 = true →
        exec (.rtd d) s = .next ((s.withSp (sp + 4#32 + d.signExtend 32)).withPc (s.readAt sp.toNat .l)))) ∧
    (readable s sp .w = true → readable s (sp + 2#32) .l = true →
      exec .rtr s = .next (((s.withSp (sp + 6#32)).withCcr
        (Ccr.ofWord ((s.readAt sp.toNat .w).setWidth 16))).withPc (s.readAt (sp + 2#32).toNat .l))) ∧
    exec .nop s = .next (s.finished 1 s.flush))

/-- RTS undoes BSR and JSR, UNLK undoes LINK. From a state a call can be made in, with a stack slot that is no rom and
whose bytes ADDR_BITS tells apart: after BSR or JSR, RTS leaves every register as before the call, the pc after it.
After LINK.W or LINK.L An (n other than 7), UNLK An leaves every register as before, the pc past the two instructions.
(47_program_control.md R354, 47_program_control.md R358, 47_program_control.md R359, 40_data_movement.md R175,
40_data_movement.md R176) -/
def Obligations.CallThenReturn : Prop :=
  ∀ (s : State) (ea : EA) (d : Disp) (r : BitVec 3) (w : Word) (l : Long), untraced s = true → pushable s .l = true →
    noRom s (s.ctx.sp - 4#32) 4 = true → 4 ≤ 2 ^ s.params.addrBits →
    (fetchable (s.pushed .l (s.after (1 + d.exts.length))) 0 d.exts.length = true →
      ∃ t u, exec (.bsr d) s = .next t ∧ exec .rts t = .next u ∧
        u.ctx = { s.ctx with pc := s.after (1 + d.exts.length) }) ∧
    (addressReady s ea 0 = true →
      ∃ t u, exec (.jsr ea) s = .next t ∧ exec .rts t = .next u ∧
        u.ctx = { s.ctx with pc := s.after (1 + ea.extWords .l) }) ∧
    (r ≠ 7#3 → fetchable s 0 1 = true →
      ∃ t u, exec (.linkW r w) s = .next t ∧ exec (.unlk r) t = .next u ∧
        u.ctx = { s.ctx with pc := s.after 3 }) ∧
    (r ≠ 7#3 → fetchable s 0 2 = true →
      ∃ t u, exec (.linkL r l) s = .next t ∧ exec (.unlk r) t = .next u ∧
        u.ctx = { s.ctx with pc := s.after 4 })

/-- The layout of SR, and the operations on CCR and SR. Software reads and writes T1, T0, S and I2–I0 at the bits
SR_LAYOUT gives them and the condition codes in bits 4 to 0; bits that hold no field are ignored by a write and read
0; under the default layout the implemented bits are 0xE71F and the places 15, 14, 13 and 10 to 8. ANDI, EORI, ORI to
CCR combine the immediate with the five condition codes and leave every other bit of SR; MOVE to CCR loads them from
the low bits of its source word. ANDI, EORI, ORI to SR (R384 to R386), in supervisor state, combine the immediate with
SR and keep its implemented bits. All flush the pipeline (R380). A value that sets a trace bit is refused under
TRACE_POLICY = refuse (R475, U15); R475's list does not name ANDI to SR, and that it is refused like the others is the
model's inference (log 25). (10_state.md R26, 10_state.md R27, 10_state.md R28, 10_state.md R29, 48_system_control.md
R380, 48_system_control.md R381, 48_system_control.md R382, 48_system_control.md R383, 48_system_control.md R384,
48_system_control.md R386, 48_system_control.md R388, 60_exceptions.md R475) -/
def Obligations.StatusForms : Prop :=
  (∀ (l : SrLayout) (v : Word),
    let places : List (Fin 8 × Nat) := [(l.t1, 15), (l.t0, 14), (l.s, 13), (l.i2, 10), (l.i1, 9), (l.i0, 8)]
    (∀ f ∈ places, (srUnpack l v).getLsbD f.2 = v.getLsbD (8 + f.1.val)) ∧
    (∀ i < 5, (srUnpack l v).getLsbD i = v.getLsbD i ∧ (srPack l v).getLsbD i = v.getLsbD i) ∧
    srUnpack l v &&& 0xE71F#16 = srUnpack l v ∧
    (l.distinct = true → (∀ f ∈ places, (srPack l v).getLsbD (8 + f.1.val) = v.getLsbD f.2) ∧
      srUnpack l (srPack l v) = v &&& 0xE71F#16) ∧
    (∀ p : Fin 8, p ∉ places.map Prod.fst → (srPack l v).getLsbD (8 + p.val) = false) ∧
    (∀ i, 5 ≤ i → i < 8 → (srPack l v).getLsbD i = false) ∧
    srPack .default v = v &&& 0xE71F#16 ∧ srUnpack .default v = v &&& 0xE71F#16) ∧
  ∀ (s : State) (b : Byte) (w : Word) (src : EA), untraced s = true →
    (fetchable s 0 1 = true → ∀ row ∈ ([(Instr.andiToCcr b, fun x y => x && y), (Instr.eoriToCcr b, fun x y => x ^^ y),
        (Instr.oriToCcr b, fun x y => x || y)] : List (Instr × (Bool → Bool → Bool))),
      let g := row.2
      let f := s.ctx.ccr
      exec row.1 s = .next (s.finished 2 (s.flush.withCcr
        { x := g f.x (b.getLsbD 4), n := g f.n (b.getLsbD 3), z := g f.z (b.getLsbD 2), v := g f.v (b.getLsbD 1),
          c := g f.c (b.getLsbD 0) }))) ∧
    (let p := placeOf s src .w 0
     sourceReady s src .w 0 = true →
     exec (.moveToCcr src) s = .next (s.finished (1 + src.extWords .w) ((s.bump p).flush.withCcr
       (Ccr.ofWord ((valueAt s .w p.loc).setWidth 16))))) ∧
    (fetchable s 0 1 = true → srS s.ctx.sr = true → ∀ row ∈
        [(Instr.andiToSr w, s.srWord &&& w), (Instr.eoriToSr w, s.srWord ^^^ w), (Instr.oriToSr w, s.srWord ||| w)],
      (srWritable s row.2 = true → exec row.1 s = .next (s.finished 2 (s.flush.withSr row.2))) ∧
      (srWritable s row.2 = false → exec row.1 s = .refused .traceBits))

/-- MOVEC. In supervisor state MOVEC moves SFC, DFC, USP and VBR to and from any general register, 32 bits, SFC and
DFC cut to their implemented bits. For Master Context_0 only, a code of MOVEC_EXT_CODES names FCR, read zero-extended
and written with the low three bits, or a plain register. That a plain one is 32 bits of storage without further
effect, and that a value above 4 leaves a free context number in FCR, are the model's choice (log 21). Any other code
takes the illegal instruction exception, with the address of the MOVEC saved. (48_system_control.md R390, 10_state.md
R32, 10_state.md R44, 10_state.md R46) -/
def Obligations.MovecForms : Prop :=
  ∀ (s : State) (xr : BitVec 4) (code : BitVec 12) (v : Long), untraced s = true → srS s.ctx.sr = true →
    fetchable s 0 1 = true →
    let x := s.ctx.getR xr
    let c := s.ctx
    let mask : Long := BitVec.ofNat 32 (2 ^ s.params.fcWidth - 1)
    (∀ row ∈ [(0x000#12, c.sfc, { c with sfc := x &&& mask }), (0x001#12, c.dfc, { c with dfc := x &&& mask }),
        (0x800#12, c.usp, { c with usp := x }), (0x801#12, c.vbr, { c with vbr := x })],
      exec (.movecFromCr xr row.1) s = .next (s.finished 2 (s.flush.withR xr row.2.1)) ∧
      exec (.movecToCr xr row.1) s = .next (s.finished 2 (s.flush.withCtx row.2.2))) ∧
    (code ∉ [0x000#12, 0x001#12, 0x800#12, 0x801#12] →
      (s.cur = 0 → s.extRegs.find? (fun e => e.1 == code) = some (code, .plain v) →
        exec (.movecFromCr xr code) s = .next (s.finished 2 (s.flush.withR xr v)) ∧
        ∃ t, exec (.movecToCr xr code) s = .next t ∧ t.ctx = { c with pc := s.after 2 } ∧ t.mem = s.mem ∧
          ∀ e, t.extRegs.find? (fun e' => e'.1 == e) =
            if e = code then some (code, .plain x) else s.extRegs.find? (fun e' => e'.1 == e)) ∧
      (s.cur = 0 → s.extRegs.find? (fun e => e.1 == code) = some (code, .fcr) →
        exec (.movecFromCr xr code) s = .next (s.finished 2 (s.flush.withR xr (BitVec.ofNat 32 s.fcr.val))) ∧
        ∀ f : CtxId,
          (x.toNat % 8 = f.val →
            exec (.movecToCr xr code) s = .next { s.finished 2 s.flush with fcr := f }) ∧
          (4 < x.toNat % 8 → (s.free 0).toNat % 5 = f.val →
            exec (.movecToCr xr code) s = .next { s.finished 2 (s.flush.drew 1) with fcr := f })) ∧
      ((s.cur ≠ 0 ∨ ∀ e ∈ s.extRegs, e.1 ≠ code) → entryReady s s.params.vec.illegal false = true →
        exec (.movecFromCr xr code) s = .next (s.entered s.params.vec.illegal s.ctx.pc none none) ∧
        exec (.movecToCr xr code) s = .next (s.entered s.params.vec.illegal s.ctx.pc none none)))

/-- MOVE USP and MOVES. In supervisor state MOVE USP copies an address register to USP or back. MOVES, with zero
reserved bits, stores the low bits of a general register at its operand, or loads the operand into the low bits of a
data register or, sign-extended, into a whole address register; no condition code changes; a register that its own
mode updates is stored as its value before or after, a free choice (R392). A nonzero reserved bit is refused (Q9). All
of these flush the pipeline (R380, R77); MOVES does so before it stores, so that its own store stays stale to a fetch:
an inference of the model (log 17). (48_system_control.md R380, 48_system_control.md R391, 48_system_control.md R392,
48_system_control.md R393, 30_encoding.md R151, 20_memory.md R77) -/
def Obligations.UspAndMoves : Prop :=
  ∀ (s : State) (r : BitVec 3) (xr : BitVec 4) (rsv : BitVec 11) (ea : EA), untraced s = true → srS s.ctx.sr = true →
    exec (.moveToUsp r) s = .next (s.finished 1 (s.flush.withCtx { s.ctx with usp := s.ctx.getA r })) ∧
    exec (.moveFromUsp r) s = .next (s.finished 1 (s.flush.withA r s.ctx.usp)) ∧
    (fetchable s 0 1 = true → ∀ row ∈ ([(Instr.movesB xr, Size.b), (Instr.movesW xr, Size.w), (Instr.movesL xr, Size.l)] :
        List ((Bool → BitVec 11 → EA → Instr) × Size)),
      let sz := row.2
      let p := placeOf s ea sz 1
      let w := 2 + ea.extWords sz
      (rsv ≠ 0#11 → exec (row.1 true rsv ea) s = .refused .reservedBits ∧
        exec (row.1 false rsv ea) s = .refused .reservedBits) ∧
      (targetReady s ea sz 1 = true → movesItself xr ea = false →
        exec (row.1 true 0#11 ea) s = .next (s.finished w ((s.flush.storeAt sz (s.ctx.getR xr) p.loc).bump p))) ∧
      (targetReady s ea sz 1 = true → ∀ n u, p.upd = some (n, u) → xr = 1#1 ++ n →
        exec (row.1 true 0#11 ea) s = .next (s.finished w
          (((s.flush.drew 1).storeAt sz (if s.freeBit 0 then u else s.ctx.getR xr) p.loc).bump p))) ∧
      (sourceReady s ea sz 1 = true →
        let v := valueAt s sz p.loc
        let t := (s.bump p).flush
        exec (row.1 false 0#11 ea) s = .next (s.finished w
          (if xr.getLsbD 3 then t.withR xr (sext sz v) else t.withD (xr.setWidth 3) sz v))))

/-- RTE. In supervisor state RTE reads SR, the pc and the Format/Offset word above SP. Format 0 frees 8 bytes, format
2 frees 12; SR takes its fields, at the places of SR_LAYOUT, from the stack and the pc the saved one. Any other format
takes the format error exception, with nothing else changed and the address of the RTE saved. A stacked SR with a
trace bit is refused under TRACE_POLICY = refuse (R475, U15; log 25). (48_system_control.md R394, 60_exceptions.md
R461, 60_exceptions.md R457, 60_exceptions.md R475, 10_state.md R28) -/
def Obligations.RteForms : Prop :=
  ∀ s : State, untraced s = true → srS s.ctx.sr = true →
    let sp := s.ctx.ssp
    readable s sp .w = true → readable s (sp + 2#32) .l = true → readable s (sp + 6#32) .w = true →
    let sr : Word := (s.readAt sp.toNat .w).setWidth 16
    let pc := s.readAt (sp + 2#32).toNat .l
    let format := (s.readAt (sp + 6#32).toNat .w).toNat / 2 ^ 12
    (∀ row ∈ [(0, 8#32), (2, 12#32)], format = row.1 →
      (srWritable s sr = true → exec .rte s = .next (s.flush.withCtx
        { s.ctx with ssp := sp + row.2, sr := srUnpack s.params.srLayout sr, pc := pc })) ∧
      (srWritable s sr = false → exec .rte s = .refused .traceBits)) ∧
    (format ≠ 0 → format ≠ 2 → entryReady s s.params.vec.formatError false = true →
      exec .rte s = .next (s.entered s.params.vec.formatError s.ctx.pc none none))

/-- STOP, LPSTOP, SLEEP, RESET. In supervisor state: STOP and LPSTOP load SR with the immediate and advance the pc.
STOP in Master Context_0 makes every READY context NOT_READY and stops the CPU; LPSTOP there makes the CPU LPSTOPPED
and changes no run state. In another context both make it NOT_READY, as SLEEP does in any context, and the scheduler
picks the next. RESET only advances the pc. STOP and LPSTOP with an operand that sets a trace bit are refused under
TRACE_POLICY = refuse (R475, U15; log 25). (48_system_control.md R395, 48_system_control.md R396, 48_system_control.md
R397, 48_system_control.md R398, 10_state.md R43, 60_exceptions.md R475) -/
def Obligations.WaitForms : Prop :=
  ∀ (s : State) (imm : Word), untraced s = true → srS s.ctx.sr = true →
    let asleep : State → State := fun t => t.withCtx { t.ctx with run := .notReady }
    (fetchable s 0 1 = true → srWritable s imm = true →
      (s.cur = 0 → exec (.stop imm) s = .next
        { s.finished 2 (s.flush.withSr imm) with
          cpu := .stopped
          ctxs := (s.finished 2 (s.flush.withSr imm)).ctxs.map fun c =>
            if c.run = .ready then { c with run := .notReady } else c }) ∧
      (s.cur ≠ 0 → exec (.stop imm) s = .next (reschedule (s.finished 2 (asleep (s.flush.withSr imm)))))) ∧
    (fetchable s 0 2 = true → srWritable s imm = true →
      (s.cur = 0 → exec (.lpstop imm) s = .next { s.finished 3 (s.flush.withSr imm) with cpu := .lpStopped }) ∧
      (s.cur ≠ 0 → exec (.lpstop imm) s = .next (reschedule (s.finished 3 (asleep (s.flush.withSr imm)))))) ∧
    (fetchable s 0 1 = true → srWritable s imm = false → exec (.stop imm) s = .refused .traceBits) ∧
    (fetchable s 0 2 = true → srWritable s imm = false → exec (.lpstop imm) s = .refused .traceBits) ∧
    exec .sleep s = .next (reschedule (s.finished 1 (asleep s.flush))) ∧
    exec .reset s = .next (s.finished 1 s.flush)

/-- The scheduler gives the CPU to a READY context; what the events of the host do. Whenever some context is READY the
scheduler makes a READY one the running context, Master Context_0 if it is READY; it changes no register and no run
state. With no READY context nothing changes: that the running context stays the same then is the model's inference
(log 29). mark_ready makes a NOT_READY context READY and runs the scheduler, and does nothing to another;
clear_jtag_halt clears the flag of a context halted by BKPT, makes it READY and runs the scheduler (that it becomes
READY is the model's inference: log 27); a request offered or withdrawn changes the pending requests only; a write by
a device or bus master, where MEM_MAP declares a device region, changes the byte of a ram address and nothing
elsewhere (log 11). That mark_ready and clear_jtag_halt leave a STOPPED CPU stopped is the model's choice (log 55).
(10_state.md R42, 10_state.md R43, 70_reset_and_hazards.md R517, 60_exceptions.md R470, 20_memory.md R78,
49_trapping.md R430, 48_system_control.md R397) -/
def Obligations.SchedulerChoosesReady : Prop :=
  (∀ s : State, ((∃ j : Fin 5, s.ctxs[j.val].run = .ready) →
      (reschedule s).ctxs[(reschedule s).cur.val].run = .ready) ∧
    (s.ctxs[0].run = .ready → (reschedule s).cur = 0) ∧
    (reschedule s).ctxs = s.ctxs ∧ (reschedule s).mem = s.mem ∧
    ((∀ j : Fin 5, s.ctxs[j.val].run ≠ .ready) → reschedule s = s)) ∧
  ∀ (s : State) (i : CtxId) (r : IrqReq) (a : Long) (v : Byte),
    (s.ctxs[i.val].run = .notReady → applyEvent s (.markReady i) =
      reschedule { s with ctxs := s.ctxs.set i.val { s.ctxs[i.val] with run := .ready } }) ∧
    (s.ctxs[i.val].run ≠ .notReady → applyEvent s (.markReady i) = s) ∧
    (s.ctxs[i.val].jtagHalt = true → s.ctxs[i.val].run = .halted → applyEvent s (.clearJtagHalt i) =
      reschedule { s with ctxs := s.ctxs.set i.val { s.ctxs[i.val] with jtagHalt := false, run := .ready } }) ∧
    (s.ctxs[i.val].jtagHalt = false → applyEvent s (.clearJtagHalt i) = s) ∧
    ({ applyEvent s (.irq r) with irqs := s.irqs } = s ∧ ∀ q, q ∈ (applyEvent s (.irq r)).irqs ↔ q = r ∨ q ∈ s.irqs) ∧
    ({ applyEvent s (.dropIrq r) with irqs := s.irqs } = s ∧
      ∀ q, q ∈ (applyEvent s (.dropIrq r)).irqs ↔ q ≠ r ∧ q ∈ s.irqs) ∧
    (hasDevice s.params = true → kindAt s.params a.toNat = .ram →
      (applyEvent s (.busWrite a v)).byteAt a.toNat = v ∧ sameMemoryOutside s (applyEvent s (.busWrite a v)) a 1) ∧
    ((hasDevice s.params = false ∨ kindAt s.params a.toNat ≠ .ram) → applyEvent s (.busWrite a v) = s)

/-- CHK. CHK of a data register against the upper bound its operand holds, both signed: below 0 takes the CHK
exception with N set, above the bound with N clear, and otherwise the instruction goes on with N free; Z, V and C are
free and X kept in each case. The frame is the six-word one, with the address after the CHK and its own.
(49_trapping.md R422, 60_exceptions.md R453, 60_exceptions.md R457) -/
def Obligations.CheckForms : Prop :=
  ∀ (s : State) (r : BitVec 3) (src : EA), untraced s = true → ∀ row ∈
      [(Instr.chkW r src, Size.w), (Instr.chkL r src, Size.l)],
    let sz := row.2
    let p := placeOf s src sz 0
    let x := signedOf sz (s.ctx.getD r)
    let ub := signedOf sz (valueAt s sz p.loc)
    let w := 1 + src.extWords sz
    let flags : Bool → Ccr := fun n =>
      { x := s.ctx.ccr.x, n := n, z := s.freeBit 0, v := s.freeBit 1, c := s.freeBit 2 }
    let u : Nat → Bool → State := fun k n => (((s.bump p).flush).drew k).withCcr (flags n)
    sourceReady s src sz 0 = true →
    (0 ≤ x → x ≤ ub → exec row.1 s = .next (s.finished w (u 4 (s.freeBit 3)))) ∧
    (∀ n : Bool, (if n then x < 0 else 0 ≤ x ∧ ub < x) → entryReady (u 3 n) 6#8 true = true →
      exec row.1 s = .next ((u 3 n).entered 6#8 (s.after w) (some s.ctx.pc) none))

/-- ILLEGAL, TRAP, BGND, BKPT, TRAPcc, TRAPV. ILLEGAL takes the illegal instruction exception with its own address
saved; TRAP #v vector 32 + v with the address after it; BGND vector 12 with the six-word frame. BKPT is a NOP when the
BKPT bit is clear; with it set, and no JTAG break-point mode, it takes vector 12 with its own address saved; in that
mode it halts its context and the scheduler picks the next. TRAPcc and TRAPV whose condition does not hold go past
their words, which are never fetched. Where it holds they take vector 7 with the six-word frame: the address after the
instruction, and its own. (49_trapping.md R421, 49_trapping.md R424, 49_trapping.md R429, 49_trapping.md R430,
49_trapping.md R425, 49_trapping.md R426, 49_trapping.md R427) -/
def Obligations.TrapForms : Prop :=
  (∀ (s : State) (v : BitVec 4) (b : BitVec 3), 
    (entryReady s s.params.vec.illegal false = true →
      exec .illegal s = .next (s.entered s.params.vec.illegal s.ctx.pc none none)) ∧
    (entryReady s (BitVec.ofNat 8 (32 + v.toNat)) false = true →
      exec (.trap v) s = .next (s.entered (BitVec.ofNat 8 (32 + v.toNat)) (s.ctx.pc + 2#32) none none)) ∧
    (entryReady s 12#8 true = true →
      exec .bgnd s = .next (s.entered 12#8 (s.ctx.pc + 2#32) (some s.ctx.pc) none)) ∧
    (untraced s = true → s.params.dcrBkpt = false → exec (.bkpt b) s = .next (s.finished 1 s.flush)) ∧
    (s.params.dcrBkpt = true → s.params.jtagBkptMode = false → entryReady s 12#8 false = true →
      exec (.bkpt b) s = .next (s.entered 12#8 s.ctx.pc none none)) ∧
    (untraced s = true → s.params.dcrBkpt = true → s.params.jtagBkptMode = true →
      exec (.bkpt b) s = .next (reschedule (s.flush.withCtx
        { s.ctx with jtagHalt := true, run := .halted, pc := s.ctx.pc + 2#32 })))) ∧
  (∀ (s : State) (cc : BitVec 4) (w : Word) (l : Long), ∀ row ∈
      [(Instr.trapccW cc w, 2, Machine.cond cc s.ctx.ccr), (Instr.trapccL cc l, 3, Machine.cond cc s.ctx.ccr),
       (Instr.trapcc cc, 1, Machine.cond cc s.ctx.ccr), (Instr.trapv, 1, s.ctx.ccr.v)],
    (row.2.2 = false → untraced s = true → exec row.1 s = .next (s.finished row.2.1 s.flush)) ∧
    (row.2.2 = true → entryReady s 7#8 true = true →
      exec row.1 s = .next (s.flush.entered 7#8 (s.after row.2.1) (some s.ctx.pc) none)))

/-- TRAPX. TRAPX #v notes the running context in FCR, leaves its pc after the TRAPX, makes Master Context_0 READY and
running, and sends it to vector 96 + v of its own VBR: with a four-word frame holding its own pc in Standard Interrupt
Mode, else without touching its stack or SR. No other context changes. (49_trapping.md R428) -/
def Obligations.TrapxForms : Prop :=
  ∀ (s : State) (v : BitVec 4),
    let k : Byte := BitVec.ofNat 8 (96 + v.toNat)
    let caller : State := s.withPc (s.ctx.pc + 2#32)
    let t : State := { caller with
      ctxs := caller.ctxs.set 0 { caller.ctxs[0] with run := .ready }
      stale := []
      fcr := s.cur
      cur := 0 }
    (s.params.stdIntMode[0] = true → entryReady t k false = true →
      exec (.trapx v) s = .next (t.entered k t.ctx.pc none none)) ∧
    (s.params.stdIntMode[0] = false → readable t (vectorAddr t k) .l = true →
      exec (.trapx v) s = .next (t.withPc (s.readAt (vectorAddr t k).toNat .l)))

/-- Words the spec gives no instruction: class U traps, class Q is refused by name. Each operation word of class Q (Q1
to Q7), which the spec leaves without meaning and tells a model to refuse, is refused under its own name in every
state. A step whose operation word is of class U takes the IllegalInstruction, LineA or LineF exception with the
address of the word saved, and nothing else has changed: LineA for every line-1010 word, LineF for every line-1111
word but LPSTOP's (behind 0xF800 once the second word could be fetched). A full extension word with BD Size = 00, or
with IS = 1 and a nonzero I/IS field, takes the IllegalInstruction exception with the address of the instruction
saved, also where R123 (c), (d) or (e) would have it refused (0108 is such a word): that (a) and (b) are tested first
is an inference of the model (log 41). Any other one with IS = 0 and a nonzero I/IS field, with bit 3 set, or with
everything suppressed, is refused (Q10). (30_encoding.md R150, 30_encoding.md R148, 30_encoding.md R123,
30_encoding.md R149, 60_exceptions.md R457, 93_implementation_defined.md) -/
def Obligations.RefusedForms : Prop :=
  (∀ (s : State) (m q r : BitVec 3) (e : BitVec 1), ∀ row ∈
      ([(.refusedMoveToSr m q, .moveToSr),
        (.refusedMovemPcW e, .movemPcRelative),
        (.refusedMovemPcL e, .movemPcRelative),
        (.refusedChkImmW r, .chkImmediate),
        (.refusedChkImmL r, .chkImmediate),
        (.refusedOrPcB r e, .orPcRelative),
        (.refusedOrPcW r e, .orPcRelative),
        (.refusedOrPcL r e, .orPcRelative),
        (.refusedOrImmB r, .orImmediate),
        (.refusedOrImmW r, .orImmediate),
        (.refusedOrImmL r, .orImmediate),
        (.refusedOrRegW r q, .orRegisterToRegister),
        (.refusedOrRegL r q, .orRegisterToRegister),
        (.refusedDivsImm r, .divsImmediate)] : List (Instr × Refusal)),
    exec row.1 s = .refused row.2) ∧
  (∀ s : State, s.mark = .none → s.events = [] → s.irqs = [] → canRun s = true → fetchCheck s s.ctx.pc = none →
    let taken : Byte → Prop := fun k => entryReady s k false = true → step s = .next (s.entered k s.ctx.pc none none)
    (fetchDecode s = .illegal → taken s.params.vec.illegal) ∧
    (fetchDecode s = .lineA → taken s.params.vec.lineA) ∧
    (fetchDecode s = .lineF → (s.codeWord s.ctx.pc = 0xF800#16 → fetchable s 0 1 = true) → taken s.params.vec.lineF) ∧
    ((s.codeWord s.ctx.pc).extractLsb' 12 4 = 10#4 → fetchDecode s = .lineA) ∧
    ((s.codeWord s.ctx.pc).extractLsb' 12 4 = 15#4 →
      (s.codeWord s.ctx.pc ≠ 0xF800#16 ∨ s.codeWord (s.ctx.pc + 2#32) ≠ 0x01C0#16) → fetchDecode s = .lineF)) ∧
  (∀ (x : Word) (rest : List Word), x.getLsbD 8 = true →
    let traps : Prop := x.extractLsb' 4 2 = 0#2 ∨ (x.getLsbD 6 = true ∧ x.extractLsb' 0 3 ≠ 0#3)
    let refuses : Prop := (x.getLsbD 6 = false ∧ x.extractLsb' 0 3 ≠ 0#3) ∨ x.getLsbD 3 = true ∨
      (x.getLsbD 7 = true ∧ x.getLsbD 6 = true ∧ x.extractLsb' 4 2 = 1#2)
    (traps → decode 0x4EF0#16 (x :: rest) = .instr (.jmp (.idx 0#3 (.illegal x))) ∧
      decode 0x4EFB#16 (x :: rest) = .instr (.jmp (.pcIdx (.illegal x)))) ∧
    (¬ traps → refuses → decode 0x4EF0#16 (x :: rest) = .instr (.jmp (.idx 0#3 (.unstated x))) ∧
      decode 0x4EFB#16 (x :: rest) = .instr (.jmp (.pcIdx (.unstated x))))) ∧
  ∀ (s : State) (r n : BitVec 3) (x : Word) (src dst : EA), fetchable s 0 1 = true → ∀ row ∈
      [(Instr.addToDnB r src, Size.b),
      (Instr.addToDnW r src, Size.w),
      (Instr.addToDnL r src, Size.l),
      (Instr.subToDnB r src, Size.b),
      (Instr.subToDnW r src, Size.w),
      (Instr.subToDnL r src, Size.l),
      (Instr.andToDnB r src, Size.b),
      (Instr.andToDnW r src, Size.w),
      (Instr.andToDnL r src, Size.l),
      (Instr.orToDnB r src, Size.b),
      (Instr.orToDnW r src, Size.w),
      (Instr.orToDnL r src, Size.l),
      (Instr.cmpB r src, Size.b),
      (Instr.cmpW r src, Size.w),
      (Instr.cmpL r src, Size.l),
      (Instr.tstB src, Size.b),
      (Instr.tstW src, Size.w),
      (Instr.tstL src, Size.l),
      (Instr.moveB src dst, Size.b),
      (Instr.moveW src dst, Size.w),
      (Instr.moveL src dst, Size.l),
      (Instr.moveaW src r, Size.w),
      (Instr.addaW r src, Size.w),
      (Instr.subaW r src, Size.w),
      (Instr.cmpaW r src, Size.w),
      (Instr.chkW r src, Size.w),
      (Instr.moveaL src r, Size.l),
      (Instr.addaL r src, Size.l),
      (Instr.subaL r src, Size.l),
      (Instr.cmpaL r src, Size.l),
      (Instr.chkL r src, Size.l),
      (Instr.mulsW r src, Size.w),
      (Instr.muluW r src, Size.w),
      (Instr.divsW r src, Size.w),
      (Instr.divuW r src, Size.w),
      (Instr.moveToCcr src, Size.w),
      (Instr.lea r src, Size.l),
      (Instr.jmp src, Size.l),
      (Instr.jsr src, Size.l),
      (Instr.pea src, Size.l)],
    (src = .idx n (.illegal x) ∨ src = .pcIdx (.illegal x) → entryReady s s.params.vec.illegal false = true →
      exec row.1 s = .next (s.entered s.params.vec.illegal s.ctx.pc none none)) ∧
    (src = .idx n (.unstated x) ∨ src = .pcIdx (.unstated x) → exec row.1 s = .refused .fullExtension)

/-- Tracing under TRACE_POLICY = cpu32. Under TRACE_POLICY = cpu32 and with T1 set and T0 clear when it began, a NOP
that completes is followed by the trace exception with the six-word frame: the address after it, and its own. With T0
alone it is not traced, and a BRA is. A STOP that began with either bit loads SR and does not stop but takes the trace
exception at once, and an RTE that began with either bit takes it after the return, with the pc returned to saved and
its own address. With both bits the behaviour is undefined and the model refuses (log 25). (60_exceptions.md R475,
60_exceptions.md R461, 48_system_control.md R394, 48_system_control.md R395) -/
def Obligations.TraceAfterInstruction : Prop :=
  (∀ (s : State) (d : Byte), s.params.tracePolicy = .cpu32 →
    let t := s.finished 1 s.flush
    let u := s.withPc (s.ctx.pc + 2#32 + d.signExtend 32)
    (srT1 s.ctx.sr = true → srT0 s.ctx.sr = false → entryReady t s.params.vec.trace true = true →
      exec .nop s = .next (t.entered s.params.vec.trace (s.after 1) (some s.ctx.pc) none)) ∧
    (srT1 s.ctx.sr = false → srT0 s.ctx.sr = true → exec .nop s = .next t ∧
      (entryReady u s.params.vec.trace true = true →
        exec (.bra (.byte d)) s = .next (u.entered s.params.vec.trace u.ctx.pc (some s.ctx.pc) none))) ∧
    (srT1 s.ctx.sr = true → srT0 s.ctx.sr = true → exec .nop s = .refused .traceBits)) ∧
  ∀ (s : State) (imm : Word), s.params.tracePolicy = .cpu32 → srS s.ctx.sr = true → srT1 s.ctx.sr ≠ srT0 s.ctx.sr →
    (let t := s.finished 2 (s.flush.withSr imm)
     fetchable s 0 1 = true → entryReady t s.params.vec.trace true = true →
     exec (.stop imm) s = .next (t.entered s.params.vec.trace (s.after 2) (some s.ctx.pc) none)) ∧
    (let sp := s.ctx.ssp
     readable s sp .w = true → readable s (sp + 2#32) .l = true → readable s (sp + 6#32) .w = true →
     ∀ row ∈ [(0, 8#32), (2, 12#32)], (s.readAt (sp + 6#32).toNat .w).toNat / 2 ^ 12 = row.1 →
     let t := s.flush.withCtx { s.ctx with
       ssp := sp + row.2, sr := srUnpack s.params.srLayout ((s.readAt sp.toNat .w).setWidth 16)
       pc := s.readAt (sp + 2#32).toNat .l }
     entryReady t s.params.vec.trace true = true →
     exec .rte s = .next (t.entered s.params.vec.trace t.ctx.pc (some s.ctx.pc) none))

/-- What the instructions that only read their operand leave unchanged. ADD, SUB, AND, OR ea,Dn; CMP, CMPA, TST,
MOVEA, ADDA, SUBA, MULS.W, MULU.W: when the operand can be read and the instruction gives a next state, every byte of
memory, every general register but the destination and the one the mode updates, the other stack pointer, every system
register, every other context and every bit of SR above the condition codes are unchanged. (40_data_movement.md R160,
00_scope.md R9) -/
def Obligations.FrameOfReads : Prop :=
  ∀ (s t : State) (r : BitVec 3) (src : EA), untraced s = true → ∀ row ∈
      [(Instr.addToDnB r src, Size.b, [0#1 ++ r]),
      (Instr.addToDnW r src, Size.w, [0#1 ++ r]),
      (Instr.addToDnL r src, Size.l, [0#1 ++ r]),
      (Instr.subToDnB r src, Size.b, [0#1 ++ r]),
      (Instr.subToDnW r src, Size.w, [0#1 ++ r]),
      (Instr.subToDnL r src, Size.l, [0#1 ++ r]),
      (Instr.andToDnB r src, Size.b, [0#1 ++ r]),
      (Instr.andToDnW r src, Size.w, [0#1 ++ r]),
      (Instr.andToDnL r src, Size.l, [0#1 ++ r]),
      (Instr.orToDnB r src, Size.b, [0#1 ++ r]),
      (Instr.orToDnW r src, Size.w, [0#1 ++ r]),
      (Instr.orToDnL r src, Size.l, [0#1 ++ r]),
      (Instr.cmpB r src, Size.b, []),
      (Instr.cmpW r src, Size.w, []),
      (Instr.cmpL r src, Size.l, []),
      (Instr.tstB src, Size.b, []),
      (Instr.tstW src, Size.w, []),
      (Instr.tstL src, Size.l, []),
      (Instr.moveaW src r, Size.w, [1#1 ++ r]),
      (Instr.addaW r src, Size.w, [1#1 ++ r]),
      (Instr.subaW r src, Size.w, [1#1 ++ r]),
      (Instr.cmpaW r src, Size.w, []),
      (Instr.moveaL src r, Size.l, [1#1 ++ r]),
      (Instr.addaL r src, Size.l, [1#1 ++ r]),
      (Instr.subaL r src, Size.l, [1#1 ++ r]),
      (Instr.cmpaL r src, Size.l, []),
      (Instr.mulsW r src, Size.w, [0#1 ++ r]),
      (Instr.muluW r src, Size.w, [0#1 ++ r])],
    let p := placeOf s src row.2.1 0
    sourceReady s src row.2.1 0 = true → exec row.1 s = .next t →
    sameMemory s t ∧ sameRegisters s t (row.2.2 ++ bumped p) ∧ sameSystem s t

/-- What the storing instructions leave unchanged. ADD, SUB, AND, OR, EOR Dn,ea; NEG, NEGX, NOT, CLR, ADDQ, SUBQ,
memory shifts, NBCD, TAS, Scc: when the operand can be read and written and the instruction gives a next state, every
byte of memory outside the operand at the address its mode gives (all of memory for a data register), every general
register but a destination register and the one the mode updates, the other stack pointer, every system register,
every other context and every bit of SR above the condition codes are unchanged. MOVE of every size whose operands can
be read and written: every byte outside the destination operand, every register but a destination register and those
the two modes update, the other stack pointer, every system register and every bit of SR above the condition codes are
unchanged. (40_data_movement.md R160, 20_memory.md R69, 00_scope.md R9, 40_data_movement.md R162, 20_memory.md R70) -/
def Obligations.FrameOfStores : Prop :=
  (∀ (s t : State) (r : BitVec 3) (cc : BitVec 4) (dst : EA), untraced s = true → ∀ row ∈
      [(Instr.addToEaB r dst, Size.b),
      (Instr.addToEaW r dst, Size.w),
      (Instr.addToEaL r dst, Size.l),
      (Instr.subToEaB r dst, Size.b),
      (Instr.subToEaW r dst, Size.w),
      (Instr.subToEaL r dst, Size.l),
      (Instr.andToEaB r dst, Size.b),
      (Instr.andToEaW r dst, Size.w),
      (Instr.andToEaL r dst, Size.l),
      (Instr.orToEaB r dst, Size.b),
      (Instr.orToEaW r dst, Size.w),
      (Instr.orToEaL r dst, Size.l),
      (Instr.eorB r dst, Size.b),
      (Instr.eorW r dst, Size.w),
      (Instr.eorL r dst, Size.l),
      (Instr.negB dst, Size.b),
      (Instr.negW dst, Size.w),
      (Instr.negL dst, Size.l),
      (Instr.negxB dst, Size.b),
      (Instr.negxW dst, Size.w),
      (Instr.negxL dst, Size.l),
      (Instr.notB dst, Size.b),
      (Instr.notW dst, Size.w),
      (Instr.notL dst, Size.l),
      (Instr.clrB dst, Size.b),
      (Instr.clrW dst, Size.w),
      (Instr.clrL dst, Size.l),
      (Instr.addqB r dst, Size.b),
      (Instr.addqW r dst, Size.w),
      (Instr.addqL r dst, Size.l),
      (Instr.subqB r dst, Size.b),
      (Instr.subqW r dst, Size.w),
      (Instr.subqL r dst, Size.l),
      (Instr.aslMem dst, Size.w),
      (Instr.asrMem dst, Size.w),
      (Instr.lslMem dst, Size.w),
      (Instr.lsrMem dst, Size.w),
      (Instr.rolMem dst, Size.w),
      (Instr.rorMem dst, Size.w),
      (Instr.roxlMem dst, Size.w),
      (Instr.roxrMem dst, Size.w),
      (Instr.nbcd dst, Size.b),
      (Instr.tas dst, Size.b),
      (Instr.scc cc dst, Size.b)],
    let p := placeOf s dst row.2 0
    modifyReady s dst row.2 0 = true → exec row.1 s = .next t →
    (∀ a, p.loc = .mem a → sameMemoryOutside s t a row.2.bytes) ∧
    (∀ x, p.loc = .dreg x → sameMemory s t) ∧
    sameRegisters s t (destination p ++ bumped p) ∧ sameSystem s t) ∧
  (∀ (s t : State) (src dst : EA), untraced s = true → ∀ row ∈
      [(Instr.moveB src dst, Size.b), (Instr.moveW src dst, Size.w), (Instr.moveL src dst, Size.l)],
    let p := placeOf s src row.2 0
    let q := placeOf (s.bump p) dst row.2 (src.extWords row.2)
    sourceReady s src row.2 0 = true → targetReady (s.bump p) dst row.2 (src.extWords row.2) = true →
    exec row.1 s = .next t →
    (∀ a, q.loc = .mem a → sameMemoryOutside s t a row.2.bytes) ∧
    (∀ x, q.loc = .dreg x → sameMemory s t) ∧
    sameRegisters s t (destination q ++ bumped p ++ bumped q) ∧ sameSystem s t)

/-- What calls, returns, PEA, LINK and UNLK leave unchanged. BSR, JSR, PEA, LINK change no byte of memory but the four
below SP and no register but SP and, for LINK, its own; RTS, RTD, RTR change no byte and no register but SP, UNLK none
but SP and its own. None changes a system register, another context or a bit of SR above the condition codes.
(47_program_control.md R354, 47_program_control.md R358, 47_program_control.md R359, 47_program_control.md R360,
47_program_control.md R361, 40_data_movement.md R174, 40_data_movement.md R175, 40_data_movement.md R176) -/
def Obligations.FrameOfStack : Prop :=
  ∀ (s t : State) (ea : EA) (d : Disp) (r : BitVec 3) (w : Word) (l : Long), untraced s = true →
    (pushable s .l = true → addressReady s ea 0 = true → fetchable s 0 2 = true →
      fetchable (s.pushed .l (s.after (1 + d.exts.length))) 0 d.exts.length = true → ∀ row ∈
        [(Instr.bsr d, []), (Instr.jsr ea, []), (Instr.pea ea, []), (Instr.linkW r w, [1#1 ++ r]),
         (Instr.linkL r l, [1#1 ++ r])],
      exec row.1 s = .next t →
      sameMemoryOutside s t (s.ctx.sp - 4#32) 4 ∧ sameRegisters s t (15#4 :: row.2) ∧ sameSystem s t) ∧
    (readable s s.ctx.sp .l = true → readable s s.ctx.sp .w = true → readable s (s.ctx.sp + 2#32) .l = true →
      fetchable s 0 1 = true → ∀ i ∈ [Instr.rts, .rtd w, .rtr],
      exec i s = .next t → sameMemory s t ∧ sameRegisters s t [15#4] ∧ sameSystem s t) ∧
    (r ≠ 7#3 → readable s (s.ctx.getA r) .l = true → exec (.unlk r) s = .next t →
      sameMemory s t ∧ sameRegisters s t [15#4, 1#1 ++ r] ∧ sameSystem s t)

/-- What a data access that faults leaves. When the operand of an instruction is in memory and its read, or the store
of its result, raises AddressError or BusError at address x: under FAULT_POLICY = terminal the machine is marked
Faulted with the kind, x and the pc of the instruction; under vectored it takes the exception by the vector of the
kind with the six-word frame, the pc of the instruction saved and x in the last long word. No register, flag or byte
has changed and the (An)+ or -(An) update of the operand is not made; but where the rule sets the flags before the
store (the memory shifts and rotates, BCHG, BCLR, BSET, TAS), a store that faults leaves them set, and a MOVE whose
store faults has made the update of its source. Stated of the instructions that read one operand, that replace their
destination, that only store (CLR, Scc, MOVE from CCR), of the pushes of PEA, JSR, BSR and the reads of RTS, RTD, RTR,
UNLK. Four things here are inferences of the model: that an update is made only after its access succeeded (log 18),
that a store that faults in its second half has changed no byte (log 19), that the push of BSR and the read of RTD
come before the fetch of their extension words (log 42), and that MOVE from CCR has flushed the pipeline before its
store (log 17). (40_data_movement.md R160, 60_exceptions.md R465, 20_memory.md R66, 20_memory.md R78,
45_bit_manipulation.md R322, 45_bit_manipulation.md R327, 44_shift_rotate.md R293, 10_state.md R23) -/
def Obligations.AccessFaults : Prop :=
  ∀ (s : State) (r : BitVec 3) (cc : BitVec 4) (src dst ea : EA) (d : Disp) (w : Word) (kind : MemFault) (x : Long),
    let why : Option Stop := some (.exc (kind.exc x))
    let ends : Instr → State → Prop := fun i u => endsFaulted u kind x s.ctx.pc (exec i s)
    (∀ row ∈
      [(Instr.addToDnB r src, Size.b),
      (Instr.addToDnW r src, Size.w),
      (Instr.addToDnL r src, Size.l),
      (Instr.subToDnB r src, Size.b),
      (Instr.subToDnW r src, Size.w),
      (Instr.subToDnL r src, Size.l),
      (Instr.andToDnB r src, Size.b),
      (Instr.andToDnW r src, Size.w),
      (Instr.andToDnL r src, Size.l),
      (Instr.orToDnB r src, Size.b),
      (Instr.orToDnW r src, Size.w),
      (Instr.orToDnL r src, Size.l),
      (Instr.cmpB r src, Size.b),
      (Instr.cmpW r src, Size.w),
      (Instr.cmpL r src, Size.l),
      (Instr.tstB src, Size.b),
      (Instr.tstW src, Size.w),
      (Instr.tstL src, Size.l),
      (Instr.moveB src dst, Size.b),
      (Instr.moveW src dst, Size.w),
      (Instr.moveL src dst, Size.l),
      (Instr.moveaW src r, Size.w),
      (Instr.addaW r src, Size.w),
      (Instr.subaW r src, Size.w),
      (Instr.cmpaW r src, Size.w),
      (Instr.chkW r src, Size.w),
      (Instr.moveaL src r, Size.l),
      (Instr.addaL r src, Size.l),
      (Instr.subaL r src, Size.l),
      (Instr.cmpaL r src, Size.l),
      (Instr.chkL r src, Size.l),
      (Instr.mulsW r src, Size.w),
      (Instr.muluW r src, Size.w),
      (Instr.divsW r src, Size.w),
      (Instr.divuW r src, Size.w),
      (Instr.moveToCcr src, Size.w)],
      ∀ a, located s src row.2 0 = true → (placeOf s src row.2 0).loc = .mem a → accessCheck s.params a row.2 = why →
      ends row.1 s) ∧
    (∀ row ∈
      [(Instr.addToEaB r dst, Size.b),
      (Instr.addToEaW r dst, Size.w),
      (Instr.addToEaL r dst, Size.l),
      (Instr.subToEaB r dst, Size.b),
      (Instr.subToEaW r dst, Size.w),
      (Instr.subToEaL r dst, Size.l),
      (Instr.andToEaB r dst, Size.b),
      (Instr.andToEaW r dst, Size.w),
      (Instr.andToEaL r dst, Size.l),
      (Instr.orToEaB r dst, Size.b),
      (Instr.orToEaW r dst, Size.w),
      (Instr.orToEaL r dst, Size.l),
      (Instr.eorB r dst, Size.b),
      (Instr.eorW r dst, Size.w),
      (Instr.eorL r dst, Size.l),
      (Instr.addqB r dst, Size.b),
      (Instr.addqW r dst, Size.w),
      (Instr.addqL r dst, Size.l),
      (Instr.subqB r dst, Size.b),
      (Instr.subqW r dst, Size.w),
      (Instr.subqL r dst, Size.l),
      (Instr.negB dst, Size.b),
      (Instr.negW dst, Size.w),
      (Instr.negL dst, Size.l),
      (Instr.negxB dst, Size.b),
      (Instr.negxW dst, Size.w),
      (Instr.negxL dst, Size.l),
      (Instr.notB dst, Size.b),
      (Instr.notW dst, Size.w),
      (Instr.notL dst, Size.l)],
      ∀ a, located s dst row.2 0 = true → (placeOf s dst row.2 0).loc = .mem a →
      (accessCheck s.params a row.2 = why ∨ accessCheck s.params a row.2 = none ∧ writeCheck s.params a row.2 = why) →
      ends row.1 s) ∧
    (∀ row ∈
      ([(Instr.aslMem dst, Size.w, fun v f => (shiftBy .asl .w 1 v f).2),
      (Instr.asrMem dst, Size.w, fun v f => (shiftBy .asr .w 1 v f).2),
      (Instr.lslMem dst, Size.w, fun v f => (shiftBy .lsl .w 1 v f).2),
      (Instr.lsrMem dst, Size.w, fun v f => (shiftBy .lsr .w 1 v f).2),
      (Instr.rolMem dst, Size.w, fun v f => (shiftBy .rol .w 1 v f).2),
      (Instr.rorMem dst, Size.w, fun v f => (shiftBy .ror .w 1 v f).2),
      (Instr.roxlMem dst, Size.w, fun v f => (shiftBy .roxl .w 1 v f).2),
      (Instr.roxrMem dst, Size.w, fun v f => (shiftBy .roxr .w 1 v f).2),
      (Instr.bchgDn r dst, Size.b, fun v f => { f with z := !v.getLsbD ((s.ctx.getD r).toNat % 8) }),
      (Instr.bclrDn r dst, Size.b, fun v f => { f with z := !v.getLsbD ((s.ctx.getD r).toNat % 8) }),
      (Instr.bsetDn r dst, Size.b, fun v f => { f with z := !v.getLsbD ((s.ctx.getD r).toNat % 8) }),
      (Instr.tas dst, Size.b, fun v f => logicFlags .b v f)] : List (Instr × Size × (Long → Ccr → Ccr))),
      ∀ a, located s dst row.2.1 0 = true → (placeOf s dst row.2.1 0).loc = .mem a →
      (accessCheck s.params a row.2.1 = why → ends row.1 s) ∧
      (accessCheck s.params a row.2.1 = none → writeCheck s.params a row.2.1 = why →
        ends row.1 (s.withCcr (row.2.2 (s.readAt a.toNat row.2.1) s.ctx.ccr)))) ∧
    (∀ row ∈
      [(Instr.clrB dst, Size.b, s),
      (Instr.clrW dst, Size.w, s),
      (Instr.clrL dst, Size.l, s),
      (Instr.scc cc dst, Size.b, s),
      (Instr.moveFromCcr dst, Size.w, s.flush)],
      ∀ a, located s dst row.2.1 0 = true → (placeOf s dst row.2.1 0).loc = .mem a →
      writeCheck s.params a row.2.1 = why → ends row.1 row.2.2) ∧
    (∀ row ∈ [(Instr.moveB src dst, Size.b), (Instr.moveW src dst, Size.w), (Instr.moveL src dst, Size.l)],
      let t := s.bump (placeOf s src row.2 0)
      ∀ a, sourceReady s src row.2 0 = true → storesItself src dst = false →
      located t dst row.2 (src.extWords row.2) = true → (placeOf t dst row.2 (src.extWords row.2)).loc = .mem a →
      writeCheck s.params a row.2 = why → ends row.1 t) ∧
    (writeCheck s.params (s.ctx.sp - 4#32) .l = why →
      (addressReady s ea 0 = true → ends (.pea ea) s ∧ ends (.jsr ea) s) ∧ ends (.bsr d) s) ∧
    (accessCheck s.params s.ctx.sp .l = why → ends .rts s ∧ ends (.rtd w) s) ∧
    (accessCheck s.params s.ctx.sp .w = why → ends .rtr s) ∧
    (readable s s.ctx.sp .w = true → accessCheck s.params (s.ctx.sp + 2#32) .l = why → ends .rtr s) ∧
    (r ≠ 7#3 → accessCheck s.params (s.ctx.getA r) .l = why → ends (.unlk r) s)
end

