-- ==== Sys2Proof/Laws/Memory.lean ====
section
/-! SUPPORT. Sys2Proof/Laws/Memory.lean: memory as data. A read after a write of the same byte gives the byte written,
any other byte reads as before, and every operation keeps the canonical form. -/

namespace Sys2Proof.Machine

theorem Memory.get_erase_same (m : Memory) (a : Nat) : (m.erase a).get a = unlistedByte := by
  induction m with
  | nil => rfl
  | cons c m ih =>
    unfold Memory.erase
    split
    · exact ih
    · next h => unfold Memory.get; rw [if_neg h]; exact ih

theorem Memory.get_erase_other (m : Memory) {a b : Nat} (h : b ≠ a) : (m.erase a).get b = m.get b := by
  induction m with
  | nil => rfl
  | cons c m ih =>
    unfold Memory.erase
    split
    · next e =>
      rw [ih]
      conv => rhs; unfold Memory.get
      rw [if_neg (by omega)]
    · conv => lhs; unfold Memory.get
      conv => rhs; unfold Memory.get
      rw [ih]

theorem Memory.mem_erase {m : Memory} {a : Nat} {c : Host.Cell} (h : c ∈ m.erase a) : c ∈ m ∧ c.1 ≠ a := by
  induction m with
  | nil => cases h
  | cons d m ih =>
    unfold Memory.erase at h
    split at h
    · exact ⟨List.mem_cons_of_mem _ (ih h).1, (ih h).2⟩
    · next g =>
      rcases List.mem_cons.1 h with rfl | h'
      · exact ⟨List.mem_cons_self, g⟩
      · exact ⟨List.mem_cons_of_mem _ (ih h').1, (ih h').2⟩

theorem Memory.get_insert_same (m : Memory) (a : Nat) (v : Byte) (h : ∀ c ∈ m, c.1 ≠ a) :
    (m.insert a v).get a = v := by
  induction m with
  | nil => simp [Memory.insert, Memory.get]
  | cons c m ih =>
    unfold Memory.insert
    split
    · simp [Memory.get]
    · unfold Memory.get
      rw [if_neg (h c List.mem_cons_self)]
      exact ih fun d hd => h d (List.mem_cons_of_mem _ hd)

theorem Memory.get_insert_other (m : Memory) {a b : Nat} (v : Byte) (h : b ≠ a) :
    (m.insert a v).get b = m.get b := by
  induction m with
  | nil => simp [Memory.insert, Memory.get, Ne.symm h]
  | cons c m ih =>
    unfold Memory.insert
    split
    · conv => lhs; unfold Memory.get
      rw [if_neg (Ne.symm h)]
    · conv => lhs; unfold Memory.get
      conv => rhs; unfold Memory.get
      rw [ih]

/-- A byte reads back as written, in any memory. -/
@[simp] theorem Memory.get_set_same (m : Memory) (a : Nat) (v : Byte) : (m.set a v).get a = v := by
  unfold Memory.set
  split
  · next h => rw [Memory.get_erase_same, h]
  · exact Memory.get_insert_same _ _ _ fun c hc => (Memory.mem_erase hc).2

/-- Every other byte reads as before, in any memory. -/
theorem Memory.get_set_other (m : Memory) {a b : Nat} (v : Byte) (h : b ≠ a) : (m.set a v).get b = m.get b := by
  unfold Memory.set
  split
  · exact Memory.get_erase_other m h
  · rw [Memory.get_insert_other _ _ h, Memory.get_erase_other m h]

theorem Memory.get_set (m : Memory) (a b : Nat) (v : Byte) :
    (m.set a v).get b = if b = a then v else m.get b := by
  split
  · next h => rw [h, Memory.get_set_same]
  · next h => exact Memory.get_set_other m v h

theorem Memory.erase_sublist (m : Memory) (a : Nat) : List.Sublist (m.erase a) m := by
  induction m with
  | nil => exact List.Sublist.refl _
  | cons c m ih =>
    unfold Memory.erase
    split
    · exact ih.cons c
    · exact ih.cons_cons c

theorem Memory.mem_insert {m : Memory} {a : Nat} {v : Byte} {c : Host.Cell} (h : c ∈ m.insert a v) :
    c = (a, v) ∨ c ∈ m := by
  induction m with
  | nil => exact .inl (by simpa [Memory.insert] using h)
  | cons d m ih =>
    unfold Memory.insert at h
    split at h
    · rcases List.mem_cons.1 h with rfl | h'
      · exact .inl rfl
      · exact .inr h'
    · rcases List.mem_cons.1 h with rfl | h'
      · exact .inr List.mem_cons_self
      · exact (ih h').imp id (List.mem_cons_of_mem _)

theorem Memory.insert_rising {m : Memory} {a : Nat} {v : Byte}
    (hm : m.Pairwise fun c c' => c.1 < c'.1) (ha : ∀ c ∈ m, c.1 ≠ a) :
    (m.insert a v).Pairwise fun c c' => c.1 < c'.1 := by
  induction m with
  | nil => simp [Memory.insert]
  | cons d m ih =>
    rw [List.pairwise_cons] at hm
    unfold Memory.insert
    split
    · next h =>
      refine List.pairwise_cons.2 ⟨fun c hc => ?_, List.pairwise_cons.2 hm⟩
      rcases List.mem_cons.1 hc with rfl | hc'
      · exact h
      · exact Nat.lt_trans h (hm.1 c hc')
    · next h =>
      have hd := ha d List.mem_cons_self
      refine List.pairwise_cons.2 ⟨fun c hc => ?_, ih hm.2 fun c hc => ha c (List.mem_cons_of_mem _ hc)⟩
      rcases Memory.mem_insert hc with rfl | hc'
      · show d.1 < a
        omega
      · exact hm.1 c hc'

/-- A write keeps the canonical form. -/
theorem Memory.set_wf {m : Memory} {a : Nat} {v : Byte} (h : m.wf) (ha : a < 2 ^ 32) : (m.set a v).wf := by
  have he : (m.erase a).wf :=
    ⟨h.1.sublist (Memory.erase_sublist m a), fun c hc => h.2 c (Memory.mem_erase hc).1⟩
  unfold Memory.set
  split
  · exact he
  · next hv =>
    refine ⟨Memory.insert_rising he.1 fun c hc => (Memory.mem_erase hc).2, fun c hc => ?_⟩
    rcases Memory.mem_insert hc with rfl | hc'
    · exact ⟨ha, hv⟩
    · exact he.2 c hc'

theorem Memory.wf_nil : Memory.wf [] := ⟨List.Pairwise.nil, fun _ h => (nomatch h)⟩

/-- Two memories in canonical form that read the same at every address are the same data. -/
theorem Memory.ext_of_get {m n : Memory} (hm : m.wf) (hn : n.wf) (h : ∀ a, m.get a = n.get a) : m = n := by
  have low : ∀ {l : Memory} {a : Nat}, (∀ c ∈ l, a < c.1) → l.get a = unlistedByte := by
    intro l a hl
    induction l with
    | nil => rfl
    | cons c l ih =>
      unfold Memory.get
      rw [if_neg (by have := hl c List.mem_cons_self; omega)]
      exact ih fun d hd => hl d (List.mem_cons_of_mem _ hd)
  induction m generalizing n with
  | nil =>
    cases n with
    | nil => rfl
    | cons c n =>
      have := h c.1
      simp only [Memory.get, if_true] at this
      exact absurd this.symm (hn.2 c List.mem_cons_self).2
  | cons c m ih =>
    cases n with
    | nil =>
      have := h c.1
      simp only [Memory.get, if_true] at this
      exact absurd this (hm.2 c List.mem_cons_self).2
    | cons d n =>
      have pm := List.pairwise_cons.1 hm.1
      have pn := List.pairwise_cons.1 hn.1
      have key : c.1 = d.1 := by
        rcases Nat.lt_trichotomy c.1 d.1 with lt | eq | gt
        · have e := h c.1
          rw [low (l := d :: n) fun x hx => by
            rcases List.mem_cons.1 hx with rfl | hx
            · exact lt
            · exact Nat.lt_trans lt (pn.1 x hx)] at e
          simp only [Memory.get, if_true] at e
          exact absurd e (hm.2 c List.mem_cons_self).2
        · exact eq
        · have e := h d.1
          rw [low (l := c :: m) fun x hx => by
            rcases List.mem_cons.1 hx with rfl | hx
            · exact gt
            · exact Nat.lt_trans gt (pm.1 x hx)] at e
          simp only [Memory.get, if_true] at e
          exact absurd e.symm (hn.2 d List.mem_cons_self).2
      have val : c.2 = d.2 := by
        have e := h c.1
        simp only [Memory.get, if_true] at e
        rwa [if_pos key.symm] at e
      have tail : m = n := by
        refine ih ⟨pm.2, fun x hx => hm.2 x (List.mem_cons_of_mem _ hx)⟩
          ⟨pn.2, fun x hx => hn.2 x (List.mem_cons_of_mem _ hx)⟩ fun a => ?_
        by_cases ha : c.1 = a
        · rw [low fun x hx => ha ▸ pm.1 x hx, low fun x hx => ha ▸ key ▸ pn.1 x hx]
        · have e := h a
          simp only [Memory.get] at e
          rwa [if_neg ha, if_neg (key ▸ ha)] at e
      rw [tail, Prod.ext key val]

/-- Writes to different bytes, in canonical form, may be exchanged. -/
theorem Memory.set_comm {m : Memory} (h : m.wf) {a b : Nat} (v w : Byte) (hab : a ≠ b) (ha : a < 2 ^ 32)
    (hb : b < 2 ^ 32) : (m.set a v).set b w = (m.set b w).set a v := by
  refine Memory.ext_of_get (Memory.set_wf (Memory.set_wf h ha) hb) (Memory.set_wf (Memory.set_wf h hb) ha) fun x => ?_
  simp only [Memory.get_set]
  split <;> split <;> first | rfl | omega

/-! ## The list of stale addresses -/

theorem mem_staleInsert {l : List Nat} {a b : Nat} : b ∈ staleInsert l a ↔ b = a ∨ b ∈ l := by
  induction l with
  | nil => simp [staleInsert]
  | cons c l ih =>
    unfold staleInsert
    split
    · simp
    · split
      · next e => subst e; simp
      · simp only [List.mem_cons, ih]
        tauto

theorem staleInsert_rising {l : List Nat} {a : Nat} (h : l.Pairwise (· < ·)) : (staleInsert l a).Pairwise (· < ·) := by
  induction l with
  | nil => simp [staleInsert]
  | cons c l ih =>
    have p := List.pairwise_cons.1 h
    unfold staleInsert
    split
    · next lt =>
      refine List.pairwise_cons.2 ⟨fun b hb => ?_, h⟩
      rcases List.mem_cons.1 hb with rfl | hb
      · exact lt
      · exact Nat.lt_trans lt (p.1 b hb)
    · split
      · exact h
      · refine List.pairwise_cons.2 ⟨fun b hb => ?_, ih p.2⟩
        rcases mem_staleInsert.1 hb with rfl | hb
        · omega
        · exact p.1 b hb

end Sys2Proof.Machine
end

