-- ==== Sys2Proof/Laws/Monad.lean ====
section
/-! SUPPORT. Sys2Proof/Laws/Monad.lean: how a computation `M` runs, one equation per combinator, so that a proof never
unfolds the monad. -/

namespace Sys2Proof.Machine

@[simp] theorem M_pure_run {α : Type} (a : α) (s : State) : (pure a : M α) s = .ok a s := rfl

@[simp] theorem M_read_run {α : Type} (f : State → α) (s : State) : M.read f s = .ok (f s) s := rfl

@[simp] theorem M_update_run (f : State → State) (s : State) : M.update f s = .ok () (f s) := rfl

@[simp] theorem M_raise_run {α : Type} (e : Exc) (s : State) : (M.raise e : M α) s = .error (.exc e) s := rfl

@[simp] theorem M_refuse_run {α : Type} (r : Refusal) (s : State) : (M.refuse r : M α) s = .error (.refuse r) s := rfl

/-- Sequencing: the first computation's answer and state go to the second; a stop ends both. -/
theorem M_bind_run {α β : Type} (x : M α) (f : α → M β) (s : State) :
    (x >>= f) s = match x s with
      | .ok a s' => f a s'
      | .error e s' => .error e s' := by
  show EStateM.bind x f s = _
  unfold EStateM.bind
  cases x s <;> rfl

@[simp] theorem M_bind_ok {α β : Type} {x : M α} {s s' : State} {a : α} (h : x s = .ok a s') (f : α → M β) :
    (x >>= f) s = f a s' := by rw [M_bind_run, h]

@[simp] theorem M_bind_error {α β : Type} {x : M α} {s s' : State} {e : Stop} (h : x s = .error e s') (f : α → M β) :
    (x >>= f) s = .error e s' := by rw [M_bind_run, h]

@[simp] theorem M_bind_read {α β : Type} (g : State → α) (f : α → M β) (s : State) :
    (M.read g >>= f) s = f (g s) s := rfl

@[simp] theorem M_bind_update {β : Type} (g : State → State) (f : Unit → M β) (s : State) :
    (M.update g >>= f) s = f () (g s) := rfl

@[simp] theorem M_bind_pure {α β : Type} (a : α) (f : α → M β) (s : State) :
    ((pure a : M α) >>= f) s = f a s := rfl

/-- A computation whose answer is mapped. -/
@[simp] theorem M_map_run {α β : Type} (g : α → β) (x : M α) (s : State) :
    (g <$> x) s = match x s with
      | .ok a s' => .ok (g a) s'
      | .error e s' => .error e s' := by
  show EStateM.map g x s = _
  unfold EStateM.map
  cases x s <;> rfl

/-- What a sequence that answers has gone through. -/
theorem M_bind_eq_ok {α β : Type} {x : M α} {f : α → M β} {s t : State} {b : β} :
    (x >>= f) s = .ok b t ↔ ∃ a s', x s = .ok a s' ∧ f a s' = .ok b t := by
  rw [M_bind_run]
  cases h : x s with
  | ok a s' => exact ⟨fun g => ⟨a, s', rfl, g⟩, fun ⟨_, _, e, g⟩ => by cases e; exact g⟩
  | error e s' => exact ⟨fun g => (nomatch g), fun ⟨_, _, e, _⟩ => (nomatch e)⟩

/-- A guard passes without a change exactly where its check finds nothing. -/
theorem M_guard_eq_ok {check : State → Option Stop} {s t : State} :
    M.guard check s = .ok () t ↔ check s = none ∧ t = s := by
  unfold M.guard
  cases h : check s with
  | none => exact ⟨fun g => by cases g; exact ⟨rfl, rfl⟩, fun ⟨_, e⟩ => by rw [e]⟩
  | some e => exact ⟨fun g => (nomatch g), fun ⟨e, _⟩ => (nomatch e)⟩

@[simp] theorem M_guard_pass {check : State → Option Stop} {s : State} (h : check s = none) :
    M.guard check s = .ok () s := M_guard_eq_ok.2 ⟨h, rfl⟩

theorem M_guard_stop {check : State → Option Stop} {s : State} {e : Stop} (h : check s = some e) :
    M.guard check s = .error e s := by unfold M.guard; rw [h]

/-- A guard before a computation. -/
theorem M_bind_guard {β : Type} (check : State → Option Stop) (f : Unit → M β) (s : State) :
    (M.guard check >>= f) s = match check s with
      | none => f () s
      | some e => .error e s := by
  rw [M_bind_run]
  unfold M.guard
  cases check s <;> rfl

end Sys2Proof.Machine
end

