-- ==== Sys2Proof/Laws/State.lean ====
section
/-! SUPPORT. Sys2Proof/Laws/State.lean: one lemma per field per update of the machine, true by `rfl` wherever the
update is a record update, so that no proof unfolds one. -/

namespace Sys2Proof.Machine

/-! ## The running context replaced -/
@[simp] theorem State.withCtx_cur (s : State) (c : Ctx) : (s.withCtx c).cur = s.cur := rfl
@[simp] theorem State.withCtx_cpu (s : State) (c : Ctx) : (s.withCtx c).cpu = s.cpu := rfl
@[simp] theorem State.withCtx_fcr (s : State) (c : Ctx) : (s.withCtx c).fcr = s.fcr := rfl
@[simp] theorem State.withCtx_mark (s : State) (c : Ctx) : (s.withCtx c).mark = s.mark := rfl
@[simp] theorem State.withCtx_mem (s : State) (c : Ctx) : (s.withCtx c).mem = s.mem := rfl
@[simp] theorem State.withCtx_stale (s : State) (c : Ctx) : (s.withCtx c).stale = s.stale := rfl
@[simp] theorem State.withCtx_irqs (s : State) (c : Ctx) : (s.withCtx c).irqs = s.irqs := rfl
@[simp] theorem State.withCtx_events (s : State) (c : Ctx) : (s.withCtx c).events = s.events := rfl
@[simp] theorem State.withCtx_extRegs (s : State) (c : Ctx) : (s.withCtx c).extRegs = s.extRegs := rfl
@[simp] theorem State.withCtx_params (s : State) (c : Ctx) : (s.withCtx c).params = s.params := rfl
@[simp] theorem State.withCtx_resetCtx (s : State) (c : Ctx) : (s.withCtx c).resetCtx = s.resetCtx := rfl
@[simp] theorem State.withCtx_draws (s : State) (c : Ctx) : (s.withCtx c).draws = s.draws := rfl

/-- The running context reads back as written. -/
@[simp] theorem State.ctx_withCtx (s : State) (c : Ctx) : (s.withCtx c).ctx = c := by
  simp [State.ctx, State.withCtx]

/-- A second replacement wins. -/
@[simp] theorem State.withCtx_withCtx (s : State) (c c' : Ctx) : (s.withCtx c).withCtx c' = s.withCtx c' := by
  simp [State.withCtx]

/-- The running context put back changes nothing. -/
@[simp] theorem State.withCtx_self (s : State) : s.withCtx s.ctx = s := by
  simp [State.withCtx, State.ctx]

/-- Every other context reads as before. -/
theorem State.withCtx_other (s : State) (c : Ctx) {i : Fin 5} (h : i ≠ s.cur) :
    (s.withCtx c).ctxs[i.val] = s.ctxs[i.val] := by
  simp only [State.withCtx]
  exact Vector.getElem_set_ne _ _ fun e => h (Fin.ext e.symm)


/-! ## `State.withCcr` -/

@[simp] theorem State.withCcr_cur (s : State) (f : Ccr) : (s.withCcr f).cur = s.cur := rfl
@[simp] theorem State.withCcr_cpu (s : State) (f : Ccr) : (s.withCcr f).cpu = s.cpu := rfl
@[simp] theorem State.withCcr_fcr (s : State) (f : Ccr) : (s.withCcr f).fcr = s.fcr := rfl
@[simp] theorem State.withCcr_mark (s : State) (f : Ccr) : (s.withCcr f).mark = s.mark := rfl
@[simp] theorem State.withCcr_mem (s : State) (f : Ccr) : (s.withCcr f).mem = s.mem := rfl
@[simp] theorem State.withCcr_stale (s : State) (f : Ccr) : (s.withCcr f).stale = s.stale := rfl
@[simp] theorem State.withCcr_irqs (s : State) (f : Ccr) : (s.withCcr f).irqs = s.irqs := rfl
@[simp] theorem State.withCcr_events (s : State) (f : Ccr) : (s.withCcr f).events = s.events := rfl
@[simp] theorem State.withCcr_extRegs (s : State) (f : Ccr) : (s.withCcr f).extRegs = s.extRegs := rfl
@[simp] theorem State.withCcr_params (s : State) (f : Ccr) : (s.withCcr f).params = s.params := rfl
@[simp] theorem State.withCcr_resetCtx (s : State) (f : Ccr) : (s.withCcr f).resetCtx = s.resetCtx := rfl
@[simp] theorem State.withCcr_draws (s : State) (f : Ccr) : (s.withCcr f).draws = s.draws := rfl
@[simp] theorem State.withCcr_ctx (s : State) (f : Ccr) : (s.withCcr f).ctx = { s.ctx with sr := putCcr s.ctx.sr f } :=
  State.ctx_withCtx _ _

/-! ## `State.withSr` -/

@[simp] theorem State.withSr_cur (s : State) (v : Word) : (s.withSr v).cur = s.cur := rfl
@[simp] theorem State.withSr_cpu (s : State) (v : Word) : (s.withSr v).cpu = s.cpu := rfl
@[simp] theorem State.withSr_fcr (s : State) (v : Word) : (s.withSr v).fcr = s.fcr := rfl
@[simp] theorem State.withSr_mark (s : State) (v : Word) : (s.withSr v).mark = s.mark := rfl
@[simp] theorem State.withSr_mem (s : State) (v : Word) : (s.withSr v).mem = s.mem := rfl
@[simp] theorem State.withSr_stale (s : State) (v : Word) : (s.withSr v).stale = s.stale := rfl
@[simp] theorem State.withSr_irqs (s : State) (v : Word) : (s.withSr v).irqs = s.irqs := rfl
@[simp] theorem State.withSr_events (s : State) (v : Word) : (s.withSr v).events = s.events := rfl
@[simp] theorem State.withSr_extRegs (s : State) (v : Word) : (s.withSr v).extRegs = s.extRegs := rfl
@[simp] theorem State.withSr_params (s : State) (v : Word) : (s.withSr v).params = s.params := rfl
@[simp] theorem State.withSr_resetCtx (s : State) (v : Word) : (s.withSr v).resetCtx = s.resetCtx := rfl
@[simp] theorem State.withSr_draws (s : State) (v : Word) : (s.withSr v).draws = s.draws := rfl
@[simp] theorem State.withSr_ctx (s : State) (v : Word) : (s.withSr v).ctx =
    { s.ctx with sr := srUnpack s.params.srLayout v } :=
  State.ctx_withCtx _ _

/-! ## `State.withPc` -/

@[simp] theorem State.withPc_cur (s : State) (v : Long) : (s.withPc v).cur = s.cur := rfl
@[simp] theorem State.withPc_cpu (s : State) (v : Long) : (s.withPc v).cpu = s.cpu := rfl
@[simp] theorem State.withPc_fcr (s : State) (v : Long) : (s.withPc v).fcr = s.fcr := rfl
@[simp] theorem State.withPc_mark (s : State) (v : Long) : (s.withPc v).mark = s.mark := rfl
@[simp] theorem State.withPc_mem (s : State) (v : Long) : (s.withPc v).mem = s.mem := rfl
@[simp] theorem State.withPc_stale (s : State) (v : Long) : (s.withPc v).stale = s.stale := rfl
@[simp] theorem State.withPc_irqs (s : State) (v : Long) : (s.withPc v).irqs = s.irqs := rfl
@[simp] theorem State.withPc_events (s : State) (v : Long) : (s.withPc v).events = s.events := rfl
@[simp] theorem State.withPc_extRegs (s : State) (v : Long) : (s.withPc v).extRegs = s.extRegs := rfl
@[simp] theorem State.withPc_params (s : State) (v : Long) : (s.withPc v).params = s.params := rfl
@[simp] theorem State.withPc_resetCtx (s : State) (v : Long) : (s.withPc v).resetCtx = s.resetCtx := rfl
@[simp] theorem State.withPc_draws (s : State) (v : Long) : (s.withPc v).draws = s.draws := rfl
@[simp] theorem State.withPc_ctx (s : State) (v : Long) : (s.withPc v).ctx = { s.ctx with pc := v } :=
  State.ctx_withCtx _ _

/-! ## `State.withD` -/

@[simp] theorem State.withD_cur (s : State) (r : BitVec 3) (sz : Size) (v : Long) : (s.withD r sz v).cur = s.cur := rfl
@[simp] theorem State.withD_cpu (s : State) (r : BitVec 3) (sz : Size) (v : Long) : (s.withD r sz v).cpu = s.cpu := rfl
@[simp] theorem State.withD_fcr (s : State) (r : BitVec 3) (sz : Size) (v : Long) : (s.withD r sz v).fcr = s.fcr := rfl
@[simp] theorem State.withD_mark (s : State) (r : BitVec 3) (sz : Size) (v : Long) : (s.withD r sz v).mark = s.mark := rfl
@[simp] theorem State.withD_mem (s : State) (r : BitVec 3) (sz : Size) (v : Long) : (s.withD r sz v).mem = s.mem := rfl
@[simp] theorem State.withD_stale (s : State) (r : BitVec 3) (sz : Size) (v : Long) : (s.withD r sz v).stale = s.stale := rfl
@[simp] theorem State.withD_irqs (s : State) (r : BitVec 3) (sz : Size) (v : Long) : (s.withD r sz v).irqs = s.irqs := rfl
@[simp] theorem State.withD_events (s : State) (r : BitVec 3) (sz : Size) (v : Long) : (s.withD r sz v).events = s.events := rfl
@[simp] theorem State.withD_extRegs (s : State) (r : BitVec 3) (sz : Size) (v : Long) : (s.withD r sz v).extRegs = s.extRegs := rfl
@[simp] theorem State.withD_params (s : State) (r : BitVec 3) (sz : Size) (v : Long) : (s.withD r sz v).params = s.params := rfl
@[simp] theorem State.withD_resetCtx (s : State) (r : BitVec 3) (sz : Size) (v : Long) : (s.withD r sz v).resetCtx = s.resetCtx := rfl
@[simp] theorem State.withD_draws (s : State) (r : BitVec 3) (sz : Size) (v : Long) : (s.withD r sz v).draws = s.draws := rfl
@[simp] theorem State.withD_ctx (s : State) (r : BitVec 3) (sz : Size) (v : Long) : (s.withD r sz v).ctx = s.ctx.withD r (insertLow sz (s.ctx.getD r) v) :=
  State.ctx_withCtx _ _

/-! ## `State.withA` -/

@[simp] theorem State.withA_cur (s : State) (r : BitVec 3) (v : Long) : (s.withA r v).cur = s.cur := rfl
@[simp] theorem State.withA_cpu (s : State) (r : BitVec 3) (v : Long) : (s.withA r v).cpu = s.cpu := rfl
@[simp] theorem State.withA_fcr (s : State) (r : BitVec 3) (v : Long) : (s.withA r v).fcr = s.fcr := rfl
@[simp] theorem State.withA_mark (s : State) (r : BitVec 3) (v : Long) : (s.withA r v).mark = s.mark := rfl
@[simp] theorem State.withA_mem (s : State) (r : BitVec 3) (v : Long) : (s.withA r v).mem = s.mem := rfl
@[simp] theorem State.withA_stale (s : State) (r : BitVec 3) (v : Long) : (s.withA r v).stale = s.stale := rfl
@[simp] theorem State.withA_irqs (s : State) (r : BitVec 3) (v : Long) : (s.withA r v).irqs = s.irqs := rfl
@[simp] theorem State.withA_events (s : State) (r : BitVec 3) (v : Long) : (s.withA r v).events = s.events := rfl
@[simp] theorem State.withA_extRegs (s : State) (r : BitVec 3) (v : Long) : (s.withA r v).extRegs = s.extRegs := rfl
@[simp] theorem State.withA_params (s : State) (r : BitVec 3) (v : Long) : (s.withA r v).params = s.params := rfl
@[simp] theorem State.withA_resetCtx (s : State) (r : BitVec 3) (v : Long) : (s.withA r v).resetCtx = s.resetCtx := rfl
@[simp] theorem State.withA_draws (s : State) (r : BitVec 3) (v : Long) : (s.withA r v).draws = s.draws := rfl
@[simp] theorem State.withA_ctx (s : State) (r : BitVec 3) (v : Long) : (s.withA r v).ctx = s.ctx.withA r v :=
  State.ctx_withCtx _ _

/-! ## `State.withR` -/

@[simp] theorem State.withR_cur (s : State) (k : BitVec 4) (v : Long) : (s.withR k v).cur = s.cur := rfl
@[simp] theorem State.withR_cpu (s : State) (k : BitVec 4) (v : Long) : (s.withR k v).cpu = s.cpu := rfl
@[simp] theorem State.withR_fcr (s : State) (k : BitVec 4) (v : Long) : (s.withR k v).fcr = s.fcr := rfl
@[simp] theorem State.withR_mark (s : State) (k : BitVec 4) (v : Long) : (s.withR k v).mark = s.mark := rfl
@[simp] theorem State.withR_mem (s : State) (k : BitVec 4) (v : Long) : (s.withR k v).mem = s.mem := rfl
@[simp] theorem State.withR_stale (s : State) (k : BitVec 4) (v : Long) : (s.withR k v).stale = s.stale := rfl
@[simp] theorem State.withR_irqs (s : State) (k : BitVec 4) (v : Long) : (s.withR k v).irqs = s.irqs := rfl
@[simp] theorem State.withR_events (s : State) (k : BitVec 4) (v : Long) : (s.withR k v).events = s.events := rfl
@[simp] theorem State.withR_extRegs (s : State) (k : BitVec 4) (v : Long) : (s.withR k v).extRegs = s.extRegs := rfl
@[simp] theorem State.withR_params (s : State) (k : BitVec 4) (v : Long) : (s.withR k v).params = s.params := rfl
@[simp] theorem State.withR_resetCtx (s : State) (k : BitVec 4) (v : Long) : (s.withR k v).resetCtx = s.resetCtx := rfl
@[simp] theorem State.withR_draws (s : State) (k : BitVec 4) (v : Long) : (s.withR k v).draws = s.draws := rfl
@[simp] theorem State.withR_ctx (s : State) (k : BitVec 4) (v : Long) : (s.withR k v).ctx = s.ctx.withR k v :=
  State.ctx_withCtx _ _

/-! ## `State.withSp` -/

@[simp] theorem State.withSp_cur (s : State) (v : Long) : (s.withSp v).cur = s.cur := rfl
@[simp] theorem State.withSp_cpu (s : State) (v : Long) : (s.withSp v).cpu = s.cpu := rfl
@[simp] theorem State.withSp_fcr (s : State) (v : Long) : (s.withSp v).fcr = s.fcr := rfl
@[simp] theorem State.withSp_mark (s : State) (v : Long) : (s.withSp v).mark = s.mark := rfl
@[simp] theorem State.withSp_mem (s : State) (v : Long) : (s.withSp v).mem = s.mem := rfl
@[simp] theorem State.withSp_stale (s : State) (v : Long) : (s.withSp v).stale = s.stale := rfl
@[simp] theorem State.withSp_irqs (s : State) (v : Long) : (s.withSp v).irqs = s.irqs := rfl
@[simp] theorem State.withSp_events (s : State) (v : Long) : (s.withSp v).events = s.events := rfl
@[simp] theorem State.withSp_extRegs (s : State) (v : Long) : (s.withSp v).extRegs = s.extRegs := rfl
@[simp] theorem State.withSp_params (s : State) (v : Long) : (s.withSp v).params = s.params := rfl
@[simp] theorem State.withSp_resetCtx (s : State) (v : Long) : (s.withSp v).resetCtx = s.resetCtx := rfl
@[simp] theorem State.withSp_draws (s : State) (v : Long) : (s.withSp v).draws = s.draws := rfl
@[simp] theorem State.withSp_ctx (s : State) (v : Long) : (s.withSp v).ctx = s.ctx.withSp v :=
  State.ctx_withCtx _ _

/-! ## Free values, pipeline flush, run states -/

@[simp] theorem State.drew_ctxs (s : State) (n : Nat) : (s.drew n).ctxs = s.ctxs := rfl
@[simp] theorem State.drew_cur (s : State) (n : Nat) : (s.drew n).cur = s.cur := rfl
@[simp] theorem State.drew_cpu (s : State) (n : Nat) : (s.drew n).cpu = s.cpu := rfl
@[simp] theorem State.drew_fcr (s : State) (n : Nat) : (s.drew n).fcr = s.fcr := rfl
@[simp] theorem State.drew_mark (s : State) (n : Nat) : (s.drew n).mark = s.mark := rfl
@[simp] theorem State.drew_mem (s : State) (n : Nat) : (s.drew n).mem = s.mem := rfl
@[simp] theorem State.drew_stale (s : State) (n : Nat) : (s.drew n).stale = s.stale := rfl
@[simp] theorem State.drew_irqs (s : State) (n : Nat) : (s.drew n).irqs = s.irqs := rfl
@[simp] theorem State.drew_events (s : State) (n : Nat) : (s.drew n).events = s.events := rfl
@[simp] theorem State.drew_extRegs (s : State) (n : Nat) : (s.drew n).extRegs = s.extRegs := rfl
@[simp] theorem State.drew_params (s : State) (n : Nat) : (s.drew n).params = s.params := rfl
@[simp] theorem State.drew_resetCtx (s : State) (n : Nat) : (s.drew n).resetCtx = s.resetCtx := rfl
@[simp] theorem State.drew_draws (s : State) (n : Nat) : (s.drew n).draws = s.draws + n := rfl
@[simp] theorem State.drew_ctx (s : State) (n : Nat) : (s.drew n).ctx = s.ctx := rfl
@[simp] theorem State.flush_ctxs (s : State) : (s.flush).ctxs = s.ctxs := rfl
@[simp] theorem State.flush_cur (s : State) : (s.flush).cur = s.cur := rfl
@[simp] theorem State.flush_cpu (s : State) : (s.flush).cpu = s.cpu := rfl
@[simp] theorem State.flush_fcr (s : State) : (s.flush).fcr = s.fcr := rfl
@[simp] theorem State.flush_mark (s : State) : (s.flush).mark = s.mark := rfl
@[simp] theorem State.flush_mem (s : State) : (s.flush).mem = s.mem := rfl
@[simp] theorem State.flush_irqs (s : State) : (s.flush).irqs = s.irqs := rfl
@[simp] theorem State.flush_events (s : State) : (s.flush).events = s.events := rfl
@[simp] theorem State.flush_extRegs (s : State) : (s.flush).extRegs = s.extRegs := rfl
@[simp] theorem State.flush_params (s : State) : (s.flush).params = s.params := rfl
@[simp] theorem State.flush_resetCtx (s : State) : (s.flush).resetCtx = s.resetCtx := rfl
@[simp] theorem State.flush_draws (s : State) : (s.flush).draws = s.draws := rfl
@[simp] theorem State.flush_stale (s : State) : s.flush.stale = [] := rfl
@[simp] theorem State.flush_ctx (s : State) : s.flush.ctx = s.ctx := rfl
@[simp] theorem State.setRun_cur (s : State) (i : CtxId) (r : CtxState) : (s.setRun i r).cur = s.cur := rfl
@[simp] theorem State.setRun_cpu (s : State) (i : CtxId) (r : CtxState) : (s.setRun i r).cpu = s.cpu := rfl
@[simp] theorem State.setRun_fcr (s : State) (i : CtxId) (r : CtxState) : (s.setRun i r).fcr = s.fcr := rfl
@[simp] theorem State.setRun_mark (s : State) (i : CtxId) (r : CtxState) : (s.setRun i r).mark = s.mark := rfl
@[simp] theorem State.setRun_mem (s : State) (i : CtxId) (r : CtxState) : (s.setRun i r).mem = s.mem := rfl
@[simp] theorem State.setRun_stale (s : State) (i : CtxId) (r : CtxState) : (s.setRun i r).stale = s.stale := rfl
@[simp] theorem State.setRun_irqs (s : State) (i : CtxId) (r : CtxState) : (s.setRun i r).irqs = s.irqs := rfl
@[simp] theorem State.setRun_events (s : State) (i : CtxId) (r : CtxState) : (s.setRun i r).events = s.events := rfl
@[simp] theorem State.setRun_extRegs (s : State) (i : CtxId) (r : CtxState) : (s.setRun i r).extRegs = s.extRegs := rfl
@[simp] theorem State.setRun_params (s : State) (i : CtxId) (r : CtxState) : (s.setRun i r).params = s.params := rfl
@[simp] theorem State.setRun_resetCtx (s : State) (i : CtxId) (r : CtxState) : (s.setRun i r).resetCtx = s.resetCtx := rfl
@[simp] theorem State.setRun_draws (s : State) (i : CtxId) (r : CtxState) : (s.setRun i r).draws = s.draws := rfl

/-! ## What is read in memory after an update that leaves it -/

theorem State.byteAt_congr {s t : State} (hm : t.mem = s.mem) (hp : t.params = s.params) (a : Nat) :
    t.byteAt a = s.byteAt a := by unfold State.byteAt; rw [hm, hp]

theorem State.readAt_congr {s t : State} (hm : t.mem = s.mem) (hp : t.params = s.params) (a : Nat) (sz : Size) :
    t.readAt a sz = s.readAt a sz := by
  cases sz <;> simp only [State.readAt, State.byteAt_congr hm hp]

theorem State.codeWord_congr {s t : State} (hm : t.mem = s.mem) (hp : t.params = s.params) (a : Long) :
    t.codeWord a = s.codeWord a := by
  simp only [State.codeWord, State.byteAt_congr hm hp]

@[simp] theorem State.withCtx_byteAt (s : State) (c : Ctx) (a : Nat) : (s.withCtx c).byteAt a = s.byteAt a := rfl
@[simp] theorem State.withCtx_readAt (s : State) (c : Ctx) (a : Nat) (sz : Size) :
    (s.withCtx c).readAt a sz = s.readAt a sz := rfl
@[simp] theorem State.withCtx_codeWord (s : State) (c : Ctx) (a : Long) : (s.withCtx c).codeWord a = s.codeWord a := rfl
@[simp] theorem State.withCcr_byteAt (s : State) (f : Ccr) (a : Nat) : (s.withCcr f).byteAt a = s.byteAt a := rfl
@[simp] theorem State.withCcr_readAt (s : State) (f : Ccr) (a : Nat) (sz : Size) :
    (s.withCcr f).readAt a sz = s.readAt a sz := rfl
@[simp] theorem State.withCcr_codeWord (s : State) (f : Ccr) (a : Long) : (s.withCcr f).codeWord a = s.codeWord a := rfl
@[simp] theorem State.withSr_byteAt (s : State) (v : Word) (a : Nat) : (s.withSr v).byteAt a = s.byteAt a := rfl
@[simp] theorem State.withSr_readAt (s : State) (v : Word) (a : Nat) (sz : Size) :
    (s.withSr v).readAt a sz = s.readAt a sz := rfl
@[simp] theorem State.withSr_codeWord (s : State) (v : Word) (a : Long) : (s.withSr v).codeWord a = s.codeWord a := rfl
@[simp] theorem State.withPc_byteAt (s : State) (v : Long) (a : Nat) : (s.withPc v).byteAt a = s.byteAt a := rfl
@[simp] theorem State.withPc_readAt (s : State) (v : Long) (a : Nat) (sz : Size) :
    (s.withPc v).readAt a sz = s.readAt a sz := rfl
@[simp] theorem State.withPc_codeWord (s : State) (v : Long) (a : Long) : (s.withPc v).codeWord a = s.codeWord a := rfl
@[simp] theorem State.withD_byteAt (s : State) (r : BitVec 3) (z : Size) (v : Long) (a : Nat) : (s.withD r z v).byteAt a = s.byteAt a := rfl
@[simp] theorem State.withD_readAt (s : State) (r : BitVec 3) (z : Size) (v : Long) (a : Nat) (sz : Size) :
    (s.withD r z v).readAt a sz = s.readAt a sz := rfl
@[simp] theorem State.withD_codeWord (s : State) (r : BitVec 3) (z : Size) (v : Long) (a : Long) : (s.withD r z v).codeWord a = s.codeWord a := rfl
@[simp] theorem State.withA_byteAt (s : State) (r : BitVec 3) (v : Long) (a : Nat) : (s.withA r v).byteAt a = s.byteAt a := rfl
@[simp] theorem State.withA_readAt (s : State) (r : BitVec 3) (v : Long) (a : Nat) (sz : Size) :
    (s.withA r v).readAt a sz = s.readAt a sz := rfl
@[simp] theorem State.withA_codeWord (s : State) (r : BitVec 3) (v : Long) (a : Long) : (s.withA r v).codeWord a = s.codeWord a := rfl
@[simp] theorem State.withR_byteAt (s : State) (k : BitVec 4) (v : Long) (a : Nat) : (s.withR k v).byteAt a = s.byteAt a := rfl
@[simp] theorem State.withR_readAt (s : State) (k : BitVec 4) (v : Long) (a : Nat) (sz : Size) :
    (s.withR k v).readAt a sz = s.readAt a sz := rfl
@[simp] theorem State.withR_codeWord (s : State) (k : BitVec 4) (v : Long) (a : Long) : (s.withR k v).codeWord a = s.codeWord a := rfl
@[simp] theorem State.withSp_byteAt (s : State) (v : Long) (a : Nat) : (s.withSp v).byteAt a = s.byteAt a := rfl
@[simp] theorem State.withSp_readAt (s : State) (v : Long) (a : Nat) (sz : Size) :
    (s.withSp v).readAt a sz = s.readAt a sz := rfl
@[simp] theorem State.withSp_codeWord (s : State) (v : Long) (a : Long) : (s.withSp v).codeWord a = s.codeWord a := rfl
@[simp] theorem State.drew_byteAt (s : State) (n : Nat) (a : Nat) : (s.drew n).byteAt a = s.byteAt a := rfl
@[simp] theorem State.drew_readAt (s : State) (n : Nat) (a : Nat) (sz : Size) :
    (s.drew n).readAt a sz = s.readAt a sz := rfl
@[simp] theorem State.drew_codeWord (s : State) (n : Nat) (a : Long) : (s.drew n).codeWord a = s.codeWord a := rfl
@[simp] theorem State.flush_byteAt (s : State) (a : Nat) : (s.flush).byteAt a = s.byteAt a := rfl
@[simp] theorem State.flush_readAt (s : State) (a : Nat) (sz : Size) :
    (s.flush).readAt a sz = s.readAt a sz := rfl
@[simp] theorem State.flush_codeWord (s : State) (a : Long) : (s.flush).codeWord a = s.codeWord a := rfl
@[simp] theorem State.setRun_byteAt (s : State) (i : CtxId) (r : CtxState) (a : Nat) : (s.setRun i r).byteAt a = s.byteAt a := rfl
@[simp] theorem State.setRun_readAt (s : State) (i : CtxId) (r : CtxState) (a : Nat) (sz : Size) :
    (s.setRun i r).readAt a sz = s.readAt a sz := rfl
@[simp] theorem State.setRun_codeWord (s : State) (i : CtxId) (r : CtxState) (a : Long) : (s.setRun i r).codeWord a = s.codeWord a := rfl

/-! ## The registers of a context -/

@[simp] theorem Ctx.withD_a (c : Ctx) (r : BitVec 3) (v : Long) : (c.withD r v).a = c.a := rfl
@[simp] theorem Ctx.withD_usp (c : Ctx) (r : BitVec 3) (v : Long) : (c.withD r v).usp = c.usp := rfl
@[simp] theorem Ctx.withD_ssp (c : Ctx) (r : BitVec 3) (v : Long) : (c.withD r v).ssp = c.ssp := rfl
@[simp] theorem Ctx.withD_pc (c : Ctx) (r : BitVec 3) (v : Long) : (c.withD r v).pc = c.pc := rfl
@[simp] theorem Ctx.withD_sr (c : Ctx) (r : BitVec 3) (v : Long) : (c.withD r v).sr = c.sr := rfl
@[simp] theorem Ctx.withD_vbr (c : Ctx) (r : BitVec 3) (v : Long) : (c.withD r v).vbr = c.vbr := rfl
@[simp] theorem Ctx.withD_sfc (c : Ctx) (r : BitVec 3) (v : Long) : (c.withD r v).sfc = c.sfc := rfl
@[simp] theorem Ctx.withD_dfc (c : Ctx) (r : BitVec 3) (v : Long) : (c.withD r v).dfc = c.dfc := rfl
@[simp] theorem Ctx.withD_run (c : Ctx) (r : BitVec 3) (v : Long) : (c.withD r v).run = c.run := rfl
@[simp] theorem Ctx.withD_jtagHalt (c : Ctx) (r : BitVec 3) (v : Long) : (c.withD r v).jtagHalt = c.jtagHalt := rfl
@[simp] theorem Ctx.withSp_d (c : Ctx) (v : Long) : (c.withSp v).d = c.d := by
  unfold Ctx.withSp; split <;> rfl
@[simp] theorem Ctx.withSp_a (c : Ctx) (v : Long) : (c.withSp v).a = c.a := by
  unfold Ctx.withSp; split <;> rfl
@[simp] theorem Ctx.withSp_pc (c : Ctx) (v : Long) : (c.withSp v).pc = c.pc := by
  unfold Ctx.withSp; split <;> rfl
@[simp] theorem Ctx.withSp_sr (c : Ctx) (v : Long) : (c.withSp v).sr = c.sr := by
  unfold Ctx.withSp; split <;> rfl
@[simp] theorem Ctx.withSp_vbr (c : Ctx) (v : Long) : (c.withSp v).vbr = c.vbr := by
  unfold Ctx.withSp; split <;> rfl
@[simp] theorem Ctx.withSp_sfc (c : Ctx) (v : Long) : (c.withSp v).sfc = c.sfc := by
  unfold Ctx.withSp; split <;> rfl
@[simp] theorem Ctx.withSp_dfc (c : Ctx) (v : Long) : (c.withSp v).dfc = c.dfc := by
  unfold Ctx.withSp; split <;> rfl
@[simp] theorem Ctx.withSp_run (c : Ctx) (v : Long) : (c.withSp v).run = c.run := by
  unfold Ctx.withSp; split <;> rfl
@[simp] theorem Ctx.withSp_jtagHalt (c : Ctx) (v : Long) : (c.withSp v).jtagHalt = c.jtagHalt := by
  unfold Ctx.withSp; split <;> rfl
@[simp] theorem Ctx.withA_d (c : Ctx) (r : BitVec 3) (v : Long) : (c.withA r v).d = c.d := by
  unfold Ctx.withA; split <;> simp
@[simp] theorem Ctx.withA_pc (c : Ctx) (r : BitVec 3) (v : Long) : (c.withA r v).pc = c.pc := by
  unfold Ctx.withA; split <;> simp
@[simp] theorem Ctx.withA_sr (c : Ctx) (r : BitVec 3) (v : Long) : (c.withA r v).sr = c.sr := by
  unfold Ctx.withA; split <;> simp
@[simp] theorem Ctx.withA_vbr (c : Ctx) (r : BitVec 3) (v : Long) : (c.withA r v).vbr = c.vbr := by
  unfold Ctx.withA; split <;> simp
@[simp] theorem Ctx.withA_sfc (c : Ctx) (r : BitVec 3) (v : Long) : (c.withA r v).sfc = c.sfc := by
  unfold Ctx.withA; split <;> simp
@[simp] theorem Ctx.withA_dfc (c : Ctx) (r : BitVec 3) (v : Long) : (c.withA r v).dfc = c.dfc := by
  unfold Ctx.withA; split <;> simp
@[simp] theorem Ctx.withA_run (c : Ctx) (r : BitVec 3) (v : Long) : (c.withA r v).run = c.run := by
  unfold Ctx.withA; split <;> simp
@[simp] theorem Ctx.withA_jtagHalt (c : Ctx) (r : BitVec 3) (v : Long) : (c.withA r v).jtagHalt = c.jtagHalt := by
  unfold Ctx.withA; split <;> simp
@[simp] theorem Ctx.withR_pc (c : Ctx) (k : BitVec 4) (v : Long) : (c.withR k v).pc = c.pc := by
  unfold Ctx.withR; split <;> simp
@[simp] theorem Ctx.withR_sr (c : Ctx) (k : BitVec 4) (v : Long) : (c.withR k v).sr = c.sr := by
  unfold Ctx.withR; split <;> simp
@[simp] theorem Ctx.withR_vbr (c : Ctx) (k : BitVec 4) (v : Long) : (c.withR k v).vbr = c.vbr := by
  unfold Ctx.withR; split <;> simp
@[simp] theorem Ctx.withR_sfc (c : Ctx) (k : BitVec 4) (v : Long) : (c.withR k v).sfc = c.sfc := by
  unfold Ctx.withR; split <;> simp
@[simp] theorem Ctx.withR_dfc (c : Ctx) (k : BitVec 4) (v : Long) : (c.withR k v).dfc = c.dfc := by
  unfold Ctx.withR; split <;> simp
@[simp] theorem Ctx.withR_run (c : Ctx) (k : BitVec 4) (v : Long) : (c.withR k v).run = c.run := by
  unfold Ctx.withR; split <;> simp
@[simp] theorem Ctx.withR_jtagHalt (c : Ctx) (k : BitVec 4) (v : Long) : (c.withR k v).jtagHalt = c.jtagHalt := by
  unfold Ctx.withR; split <;> simp

/-- SP reads back as written. -/
@[simp] theorem Ctx.sp_withSp (c : Ctx) (v : Long) : (c.withSp v).sp = v := by
  unfold Ctx.withSp; split <;> simp [Ctx.sp, *]

@[simp] theorem Ctx.withSp_withSp (c : Ctx) (v w : Long) : (c.withSp v).withSp w = c.withSp w := by
  unfold Ctx.withSp; split <;> simp [*]

/-- A data register reads back as written. -/
@[simp] theorem Ctx.getD_withD_same (c : Ctx) (r : BitVec 3) (v : Long) : (c.withD r v).getD r = v := by
  simp [Ctx.getD, Ctx.withD, regIdx, Vector.get_eq_getElem]

/-- Every other data register reads as before. -/
theorem Ctx.getD_withD_other (c : Ctx) {r q : BitVec 3} (v : Long) (h : q ≠ r) :
    (c.withD r v).getD q = c.getD q := by
  simp only [Ctx.getD, Ctx.withD, regIdx, Vector.get_eq_getElem]
  exact Vector.getElem_set_ne _ _ fun e => h (BitVec.eq_of_toNat_eq e.symm)

@[simp] theorem Ctx.getD_withSp (c : Ctx) (v : Long) (r : BitVec 3) : (c.withSp v).getD r = c.getD r := by
  simp [Ctx.getD]

@[simp] theorem Ctx.getD_withA (c : Ctx) (q : BitVec 3) (v : Long) (r : BitVec 3) :
    (c.withA q v).getD r = c.getD r := by
  simp [Ctx.getD]

@[simp] theorem Ctx.sp_withD (c : Ctx) (r : BitVec 3) (v : Long) : (c.withD r v).sp = c.sp := rfl

@[simp] theorem Ctx.getA_withD (c : Ctx) (r q : BitVec 3) (v : Long) : (c.withD r v).getA q = c.getA q := rfl

/-- An address register, A7 among them, reads back as written. -/
@[simp] theorem Ctx.getA_withA_same (c : Ctx) (r : BitVec 3) (v : Long) : (c.withA r v).getA r = v := by
  unfold Ctx.getA Ctx.withA
  split <;> simp

/-- Every other address register reads as before. -/
theorem Ctx.getA_withA_other (c : Ctx) {r q : BitVec 3} (v : Long) (h : q ≠ r) :
    (c.withA r v).getA q = c.getA q := by
  have hn : r.toNat ≠ q.toNat := fun e => h (BitVec.eq_of_toNat_eq e.symm)
  unfold Ctx.getA Ctx.withA
  split
  · split
    · simp [hn]
    · simp
  · split
    · simp [Ctx.sp]
    · omega

/-- A general register reads back as written. -/
@[simp] theorem Ctx.getR_withR_same (c : Ctx) (k : BitVec 4) (v : Long) : (c.withR k v).getR k = v := by
  unfold Ctx.getR Ctx.withR
  split <;> simp

/-- Every other general register reads as before. -/
theorem Ctx.getR_withR_other (c : Ctx) {k q : BitVec 4} (v : Long) (h : q ≠ k) :
    (c.withR k v).getR q = c.getR q := by
  have low : ∀ {a b : BitVec 4}, a.getLsbD 3 = b.getLsbD 3 → a.setWidth 3 = b.setWidth 3 → a = b := by decide
  unfold Ctx.getR Ctx.withR
  by_cases hk : k.getLsbD 3 = true <;> by_cases hq : q.getLsbD 3 = true <;> simp only [hk, hq, if_true, if_false, Bool.false_eq_true]
  · exact Ctx.getA_withA_other c v fun e => h (low (by rw [hq, hk]) e)
  · simp
  · simp
  · exact Ctx.getD_withD_other c v fun e => h (low (by simp_all) e)

/-- `R[k]` of a data register number and of an address register number. -/
@[simp] theorem Ctx.getR_data (c : Ctx) (r : BitVec 3) : c.getR (0#1 ++ r) = c.getD r := by
  unfold Ctx.getR
  rw [show (0#1 ++ r).getLsbD 3 = false by revert r; decide, show (0#1 ++ r).setWidth 3 = r by revert r; decide]
  rfl

@[simp] theorem Ctx.getR_address (c : Ctx) (r : BitVec 3) : c.getR (1#1 ++ r) = c.getA r := by
  unfold Ctx.getR
  rw [show (1#1 ++ r).getLsbD 3 = true by revert r; decide, show (1#1 ++ r).setWidth 3 = r by revert r; decide]
  rfl

@[simp] theorem Ctx.withR_data (c : Ctx) (r : BitVec 3) (v : Long) : c.withR (0#1 ++ r) v = c.withD r v := by
  unfold Ctx.withR
  rw [show (0#1 ++ r).getLsbD 3 = false by revert r; decide, show (0#1 ++ r).setWidth 3 = r by revert r; decide]
  rfl

@[simp] theorem Ctx.withR_address (c : Ctx) (r : BitVec 3) (v : Long) : c.withR (1#1 ++ r) v = c.withA r v := by
  unfold Ctx.withR
  rw [show (1#1 ++ r).getLsbD 3 = true by revert r; decide, show (1#1 ++ r).setWidth 3 = r by revert r; decide]
  rfl

/-- The registers a replacement of SR's condition codes, or of the pc, leaves. -/
@[simp] theorem Ctx.getD_withSr (c : Ctx) (v : Word) (r : BitVec 3) : Ctx.getD { c with sr := v } r = c.getD r := rfl

@[simp] theorem Ctx.getD_withPc (c : Ctx) (v : Long) (r : BitVec 3) : Ctx.getD { c with pc := v } r = c.getD r := rfl

@[simp] theorem Ctx.getA_withPc (c : Ctx) (v : Long) (r : BitVec 3) : Ctx.getA { c with pc := v } r = c.getA r := rfl

@[simp] theorem Ctx.sp_withPc (c : Ctx) (v : Long) : Ctx.sp { c with pc := v } = c.sp := rfl

/-! ## SR and its condition codes -/

/-- The condition codes of a word with them replaced. -/
@[simp] theorem Ccr.ofWord_putCcr (sr : Word) (f : Ccr) : Ccr.ofWord (putCcr sr f) = f := by
  rcases f with ⟨x, n, z, v, c⟩
  simp only [Ccr.ofWord, putCcr, Ccr.bits, BitVec.getLsbD_append]
  cases x <;> cases n <;> cases z <;> cases v <;> cases c <;> rfl

/-- Every bit from 5 on is kept. -/
theorem putCcr_high (sr : Word) (f : Ccr) {i : Nat} (h : 5 ≤ i) : (putCcr sr f).getLsbD i = sr.getLsbD i := by
  simp only [putCcr, BitVec.getLsbD_append, show ¬ i < 5 by omega, if_false, BitVec.getLsbD_extractLsb']
  by_cases hi : i < 16
  · simp [show i - 5 < 11 by omega, show 5 + (i - 5) = i by omega]
  · simp [show ¬ i - 5 < 11 by omega, BitVec.getLsbD_of_ge sr i (by omega)]

/-- A bit of the high byte, read back. -/
theorem highBit_getLsbD (b : Bool) (p : Fin 8) (i : Nat) :
    (highBit b p).getLsbD i = (b && decide (i = 8 + p.val)) := by
  have hp := p.isLt
  by_cases h : i = 8 + p.val
  · subst h; simp [highBit, show 8 + p.val < 16 by omega]
  · by_cases hl : i < 8 + p.val
    · simp [highBit, h, hl]
    · simp [highBit, h]
      intros
      omega

/-- The low five bits, as a bit of the mask of the condition codes. -/
theorem ccrMask_getLsbD {i : Nat} (hi : i < 16) : (0x001F#16 : Word).getLsbD i = decide (i < 5) :=
  (by decide : ∀ i ∈ List.range 16, (0x001F#16 : Word).getLsbD i = decide (i < 5)) i (List.mem_range.2 hi)

/-- Each bit of what software writes to SR. -/
theorem srUnpack_getLsbD (l : SrLayout) (w : Word) {i : Nat} (hi : i < 16) :
    (srUnpack l w).getLsbD i =
      if i = 15 then w.getLsbD (8 + l.t1.val) else if i = 14 then w.getLsbD (8 + l.t0.val)
      else if i = 13 then w.getLsbD (8 + l.s.val) else if i = 10 then w.getLsbD (8 + l.i2.val)
      else if i = 9 then w.getLsbD (8 + l.i1.val) else if i = 8 then w.getLsbD (8 + l.i0.val)
      else decide (i < 5) && w.getLsbD i := by
  unfold srUnpack
  simp only [BitVec.getLsbD_or, BitVec.getLsbD_and, highBit_getLsbD]
  rw [ccrMask_getLsbD hi]
  interval_cases i <;> simp

/-- Each bit of SR as software sees it. -/
theorem srPack_getLsbD (l : SrLayout) (w : Word) {i : Nat} (hi : i < 16) :
    (srPack l w).getLsbD i =
      ((decide (i = 8 + l.t1.val) && w.getLsbD 15) || (decide (i = 8 + l.t0.val) && w.getLsbD 14) ||
        (decide (i = 8 + l.s.val) && w.getLsbD 13) || (decide (i = 8 + l.i2.val) && w.getLsbD 10) ||
        (decide (i = 8 + l.i1.val) && w.getLsbD 9) || (decide (i = 8 + l.i0.val) && w.getLsbD 8) ||
        (decide (i < 5) && w.getLsbD i)) := by
  unfold srPack srT1 srT0 srS
  simp only [BitVec.getLsbD_or, BitVec.getLsbD_and, highBit_getLsbD]
  rw [ccrMask_getLsbD hi]
  simp [Bool.and_comm]

/-- What software writes to SR leaves no unimplemented bit set (R28). -/
@[simp] theorem srUnpack_masked (l : SrLayout) (w : Word) : srUnpack l w &&& srImplemented = srUnpack l w := by
  have m : ∀ (b : Bool) (p : Fin 8), p ∈ [7, 6, 5, 2, 1, 0] → highBit b p &&& srImplemented = highBit b p := by decide
  have h : ∀ x y : Word, x &&& srImplemented = x → y &&& srImplemented = y →
      (x ||| y) &&& srImplemented = x ||| y := by
    intro x y hx hy; ext i hi
    have hx := congrArg (fun v : Word => v[i]) hx; have hy := congrArg (fun v : Word => v[i]) hy
    simp only [BitVec.getElem_and, BitVec.getElem_or] at hx hy ⊢
    rw [Bool.and_or_distrib_right, hx, hy]
  have e : (0x001F#16 : Word) &&& srImplemented = 0x001F#16 := by decide
  unfold srUnpack
  exact h _ _ (h _ _ (h _ _ (h _ _ (h _ _ (h _ _ (m _ _ (by decide)) (m _ _ (by decide))) (m _ _ (by decide)))
    (m _ _ (by decide))) (m _ _ (by decide))) (m _ _ (by decide))) (by rw [BitVec.and_assoc, e])

@[simp] theorem srS_putCcr (sr : Word) (f : Ccr) : srS (putCcr sr f) = srS sr := putCcr_high sr f (by decide)

@[simp] theorem srT1_putCcr (sr : Word) (f : Ccr) : srT1 (putCcr sr f) = srT1 sr := putCcr_high sr f (by decide)

@[simp] theorem srT0_putCcr (sr : Word) (f : Ccr) : srT0 (putCcr sr f) = srT0 sr := putCcr_high sr f (by decide)

@[simp] theorem Ctx.sp_withCcr (c : Ctx) (f : Ccr) : Ctx.sp { c with sr := putCcr c.sr f } = c.sp := by
  simp [Ctx.sp]

@[simp] theorem Ctx.getA_withCcr (c : Ctx) (f : Ccr) (r : BitVec 3) :
    Ctx.getA { c with sr := putCcr c.sr f } r = c.getA r := by
  simp [Ctx.getA]

/-- Exception entry sets S. -/
@[simp] theorem srS_srForEntry (sr : Word) (level : Option (BitVec 3)) : srS (srForEntry sr level) = true := by
  cases level <;> simp [srS, srForEntry]

/-! ## What a single update of SR or pc leaves of SP -/

@[simp] theorem State.flush_withCtx (s : State) (c : Ctx) : (s.withCtx c).flush = s.flush.withCtx c := rfl

@[simp] theorem State.drew_withCtx (s : State) (c : Ctx) (n : Nat) : (s.withCtx c).drew n = (s.drew n).withCtx c := rfl

@[simp] theorem State.flush_flush (s : State) : s.flush.flush = s.flush := rfl

@[simp] theorem State.drew_flush (s : State) (n : Nat) : s.flush.drew n = (s.drew n).flush := rfl

@[simp] theorem State.drew_zero (s : State) : s.drew 0 = s := rfl

@[simp] theorem State.drew_drew (s : State) (m n : Nat) : (s.drew m).drew n = s.drew (m + n) := by
  simp [State.drew, Nat.add_assoc]

end Sys2Proof.Machine
end

