-- ==== Sys2Proof/Laws/Ops.lean ====
section
/-! SUPPORT. Sys2Proof/Laws/Ops.lean: what each shared operation of Sys2Proof/Machine/Ops.lean does, said once: a read,
a store and its frame, a push, a fetch, the completion of an instruction, the entry of an exception. -/

namespace Sys2Proof.Machine

/-! ## Registers, one equation each -/

@[simp] theorem getD_run (r : BitVec 3) (s : State) : getD r s = .ok (s.ctx.getD r) s := rfl
@[simp] theorem getA_run (r : BitVec 3) (s : State) : getA r s = .ok (s.ctx.getA r) s := rfl
@[simp] theorem getR_run (k : BitVec 4) (s : State) : getR k s = .ok (s.ctx.getR k) s := rfl
@[simp] theorem getSp_run (s : State) : getSp s = .ok s.ctx.sp s := rfl
@[simp] theorem getPc_run (s : State) : getPc s = .ok s.ctx.pc s := rfl
@[simp] theorem getCcr_run (s : State) : getCcr s = .ok s.ctx.ccr s := rfl
@[simp] theorem setD_run (r : BitVec 3) (sz : Size) (v : Long) (s : State) :
    setD r sz v s = .ok () (s.withD r sz v) := rfl
@[simp] theorem setA_run (r : BitVec 3) (v : Long) (s : State) : setA r v s = .ok () (s.withA r v) := rfl
@[simp] theorem setR_run (k : BitVec 4) (v : Long) (s : State) : setR k v s = .ok () (s.withR k v) := rfl
@[simp] theorem setSp_run (v : Long) (s : State) : setSp v s = .ok () (s.withSp v) := rfl
@[simp] theorem setPc_run (v : Long) (s : State) : setPc v s = .ok () (s.withPc v) := rfl
@[simp] theorem setSr_run (v : Word) (s : State) : setSr v s = .ok () (s.withSr v) := rfl
@[simp] theorem setCcr_run (f : Ccr) (s : State) : setCcr f s = .ok () (s.withCcr f) := rfl
@[simp] theorem setLogicFlags_run (sz : Size) (v : Long) (s : State) :
    setLogicFlags sz v s = .ok () (s.withCcr (logicFlags sz v s.ctx.ccr)) := rfl
@[simp] theorem flushPipeline_run (s : State) : flushPipeline s = .ok () s.flush := rfl
@[simp] theorem draw_run (s : State) : draw s = .ok (s.free 0) (s.drew 1) := rfl
@[simp] theorem drawBit_run (s : State) : drawBit s = .ok (s.freeBit 0) (s.drew 1) := rfl
@[simp] theorem drawSized_run (sz : Size) (s : State) : drawSized sz s = .ok (trunc sz (s.free 0)) (s.drew 1) := rfl
theorem requireSupervisor_run {s : State} (h : srS s.ctx.sr = true) : requireSupervisor s = .ok () s :=
  M_guard_pass (by simp [h])
theorem requireSupervisor_stop {s : State} (h : srS s.ctx.sr = false) :
    requireSupervisor s = .error (.exc .privilege) s := M_guard_stop (by simp [h])

/-- A free value further on is one of those after the draws between. -/
@[simp] theorem State.free_drew (s : State) (n k : Nat) : (s.drew n).free k = s.free (n + k) := by
  simp [State.free, Nat.add_assoc]
@[simp] theorem State.freeBit_drew (s : State) (n k : Nat) : (s.drew n).freeBit k = s.freeBit (n + k) := by
  simp [State.freeBit, Nat.add_assoc]

/-! ## Stores -/

@[simp] theorem State.storeByte_ctxs (s : State) (a : Nat) (v : Byte) : (s.storeByte a v).ctxs = s.ctxs := by
  unfold State.storeByte; split <;> rfl
@[simp] theorem State.storeByte_cur (s : State) (a : Nat) (v : Byte) : (s.storeByte a v).cur = s.cur := by
  unfold State.storeByte; split <;> rfl
@[simp] theorem State.storeByte_cpu (s : State) (a : Nat) (v : Byte) : (s.storeByte a v).cpu = s.cpu := by
  unfold State.storeByte; split <;> rfl
@[simp] theorem State.storeByte_fcr (s : State) (a : Nat) (v : Byte) : (s.storeByte a v).fcr = s.fcr := by
  unfold State.storeByte; split <;> rfl
@[simp] theorem State.storeByte_mark (s : State) (a : Nat) (v : Byte) : (s.storeByte a v).mark = s.mark := by
  unfold State.storeByte; split <;> rfl
@[simp] theorem State.storeByte_irqs (s : State) (a : Nat) (v : Byte) : (s.storeByte a v).irqs = s.irqs := by
  unfold State.storeByte; split <;> rfl
@[simp] theorem State.storeByte_events (s : State) (a : Nat) (v : Byte) : (s.storeByte a v).events = s.events := by
  unfold State.storeByte; split <;> rfl
@[simp] theorem State.storeByte_extRegs (s : State) (a : Nat) (v : Byte) : (s.storeByte a v).extRegs = s.extRegs := by
  unfold State.storeByte; split <;> rfl
@[simp] theorem State.storeByte_params (s : State) (a : Nat) (v : Byte) : (s.storeByte a v).params = s.params := by
  unfold State.storeByte; split <;> rfl
@[simp] theorem State.storeByte_resetCtx (s : State) (a : Nat) (v : Byte) : (s.storeByte a v).resetCtx = s.resetCtx := by
  unfold State.storeByte; split <;> rfl
@[simp] theorem State.storeByte_draws (s : State) (a : Nat) (v : Byte) : (s.storeByte a v).draws = s.draws := by
  unfold State.storeByte; split <;> rfl
@[simp] theorem State.storeBytes_ctxs (s : State) (a : Nat) (l : List Byte) : (s.storeBytes a l).ctxs = s.ctxs := by
  induction l generalizing s a with
  | nil => rfl
  | cons v vs ih => simp [State.storeBytes, ih]
@[simp] theorem State.storeBytes_cur (s : State) (a : Nat) (l : List Byte) : (s.storeBytes a l).cur = s.cur := by
  induction l generalizing s a with
  | nil => rfl
  | cons v vs ih => simp [State.storeBytes, ih]
@[simp] theorem State.storeBytes_cpu (s : State) (a : Nat) (l : List Byte) : (s.storeBytes a l).cpu = s.cpu := by
  induction l generalizing s a with
  | nil => rfl
  | cons v vs ih => simp [State.storeBytes, ih]
@[simp] theorem State.storeBytes_fcr (s : State) (a : Nat) (l : List Byte) : (s.storeBytes a l).fcr = s.fcr := by
  induction l generalizing s a with
  | nil => rfl
  | cons v vs ih => simp [State.storeBytes, ih]
@[simp] theorem State.storeBytes_mark (s : State) (a : Nat) (l : List Byte) : (s.storeBytes a l).mark = s.mark := by
  induction l generalizing s a with
  | nil => rfl
  | cons v vs ih => simp [State.storeBytes, ih]
@[simp] theorem State.storeBytes_irqs (s : State) (a : Nat) (l : List Byte) : (s.storeBytes a l).irqs = s.irqs := by
  induction l generalizing s a with
  | nil => rfl
  | cons v vs ih => simp [State.storeBytes, ih]
@[simp] theorem State.storeBytes_events (s : State) (a : Nat) (l : List Byte) : (s.storeBytes a l).events = s.events := by
  induction l generalizing s a with
  | nil => rfl
  | cons v vs ih => simp [State.storeBytes, ih]
@[simp] theorem State.storeBytes_extRegs (s : State) (a : Nat) (l : List Byte) : (s.storeBytes a l).extRegs = s.extRegs := by
  induction l generalizing s a with
  | nil => rfl
  | cons v vs ih => simp [State.storeBytes, ih]
@[simp] theorem State.storeBytes_params (s : State) (a : Nat) (l : List Byte) : (s.storeBytes a l).params = s.params := by
  induction l generalizing s a with
  | nil => rfl
  | cons v vs ih => simp [State.storeBytes, ih]
@[simp] theorem State.storeBytes_resetCtx (s : State) (a : Nat) (l : List Byte) : (s.storeBytes a l).resetCtx = s.resetCtx := by
  induction l generalizing s a with
  | nil => rfl
  | cons v vs ih => simp [State.storeBytes, ih]
@[simp] theorem State.storeBytes_draws (s : State) (a : Nat) (l : List Byte) : (s.storeBytes a l).draws = s.draws := by
  induction l generalizing s a with
  | nil => rfl
  | cons v vs ih => simp [State.storeBytes, ih]
@[simp] theorem State.wrote_ctxs (s : State) (a : Long) (sz : Size) (v : Long) : (s.wrote a sz v).ctxs = s.ctxs := by
  simp [State.wrote]
@[simp] theorem State.wrote_cur (s : State) (a : Long) (sz : Size) (v : Long) : (s.wrote a sz v).cur = s.cur := by
  simp [State.wrote]
@[simp] theorem State.wrote_cpu (s : State) (a : Long) (sz : Size) (v : Long) : (s.wrote a sz v).cpu = s.cpu := by
  simp [State.wrote]
@[simp] theorem State.wrote_fcr (s : State) (a : Long) (sz : Size) (v : Long) : (s.wrote a sz v).fcr = s.fcr := by
  simp [State.wrote]
@[simp] theorem State.wrote_mark (s : State) (a : Long) (sz : Size) (v : Long) : (s.wrote a sz v).mark = s.mark := by
  simp [State.wrote]
@[simp] theorem State.wrote_irqs (s : State) (a : Long) (sz : Size) (v : Long) : (s.wrote a sz v).irqs = s.irqs := by
  simp [State.wrote]
@[simp] theorem State.wrote_events (s : State) (a : Long) (sz : Size) (v : Long) : (s.wrote a sz v).events = s.events := by
  simp [State.wrote]
@[simp] theorem State.wrote_extRegs (s : State) (a : Long) (sz : Size) (v : Long) : (s.wrote a sz v).extRegs = s.extRegs := by
  simp [State.wrote]
@[simp] theorem State.wrote_params (s : State) (a : Long) (sz : Size) (v : Long) : (s.wrote a sz v).params = s.params := by
  simp [State.wrote]
@[simp] theorem State.wrote_resetCtx (s : State) (a : Long) (sz : Size) (v : Long) : (s.wrote a sz v).resetCtx = s.resetCtx := by
  simp [State.wrote]
@[simp] theorem State.wrote_draws (s : State) (a : Long) (sz : Size) (v : Long) : (s.wrote a sz v).draws = s.draws := by
  simp [State.wrote]

/-- A context is one of the five and the number of the running one. -/
theorem State.ctx_congr {s t : State} (h : s.ctxs = t.ctxs) (hc : s.cur = t.cur) : s.ctx = t.ctx := by
  unfold State.ctx
  simp only [h, hc]

@[simp] theorem State.wrote_ctx (s : State) (a : Long) (sz : Size) (v : Long) : (s.wrote a sz v).ctx = s.ctx :=
  State.ctx_congr (by simp) (by simp)

@[simp] theorem State.storeByte_ctx (s : State) (a : Nat) (v : Byte) : (s.storeByte a v).ctx = s.ctx :=
  State.ctx_congr (by simp) (by simp)

/-- A store to memory and a change of the running context may be exchanged. -/
theorem State.storeBytes_withCtx (s : State) (a : Nat) (l : List Byte) (c : Ctx) :
    (s.withCtx c).storeBytes a l = (s.storeBytes a l).withCtx c := by
  induction l generalizing s a with
  | nil => rfl
  | cons v vs ih =>
    simp only [State.storeBytes]
    rw [← ih]
    congr 1
    unfold State.storeByte
    by_cases h : kindAt s.params a = .rom <;> simp [h, State.withCtx]

theorem State.wrote_withCtx (s : State) (a : Long) (sz : Size) (v : Long) (c : Ctx) :
    (s.withCtx c).wrote a sz v = (s.wrote a sz v).withCtx c := State.storeBytes_withCtx _ _ _ _

theorem operandBytes_length (sz : Size) (v : Long) : (operandBytes sz v).length = sz.bytes := by
  cases sz <;> rfl

/-- One stored byte: it reads back, unless the address is rom; every other cell holds what it held. -/
theorem State.storeByte_get (s : State) (a b : Nat) (v : Byte) :
    (s.storeByte a v).mem.get b =
      if b = busAddr s.params a ∧ kindAt s.params a ≠ .rom then v else s.mem.get b := by
  unfold State.storeByte
  by_cases h : kindAt s.params a = .rom
  · simp [h]
  · simp [h, Memory.get_set]

/-- Cells that no address of a store reaches hold what they held. -/
theorem State.storeBytes_get_other (s : State) (a : Nat) (l : List Byte) {b : Nat}
    (h : ∀ j < l.length, b ≠ busAddr s.params (a + j)) : (s.storeBytes a l).mem.get b = s.mem.get b := by
  induction l generalizing s a with
  | nil => rfl
  | cons v vs ih =>
    rw [State.storeBytes, ih, State.storeByte_get, if_neg fun e => h 0 (by simp) (by simpa using e.1)]
    intro j hj
    have := h (j + 1) (by simpa using hj)
    rwa [State.storeByte_params, show a + 1 + j = a + (j + 1) by omega]

/-- Distinct addresses within the driven address bits reach distinct cells. -/
theorem busAddr_ne {p : Params} {a i j : Nat} (hi : i < 2 ^ p.addrBits) (hj : j < 2 ^ p.addrBits) (h : i ≠ j) :
    busAddr p (a + i) ≠ busAddr p (a + j) := by
  intro e
  have h1 : (a + i) % 2 ^ p.addrBits = (a + j) % 2 ^ p.addrBits := e
  have h2 : i % 2 ^ p.addrBits = j % 2 ^ p.addrBits := Nat.ModEq.add_left_cancel' a h1
  rw [Nat.mod_eq_of_lt hi, Nat.mod_eq_of_lt hj] at h2
  exact h h2

/-- Bytes of a store read back, except in rom, where the store is no longer than the driven addresses. -/
theorem State.storeBytes_get_stored (s : State) (a : Nat) (l : List Byte) {j : Nat} (h : j < l.length)
    (hl : l.length ≤ 2 ^ s.params.addrBits) (hr : kindAt s.params (a + j) ≠ .rom) :
    (s.storeBytes a l).byteAt (a + j) = l[j] := by
  induction l generalizing s a j with
  | nil => exact absurd h (by simp)
  | cons v vs ih =>
    rw [List.length_cons] at hl
    rw [State.storeBytes]
    cases j with
    | zero =>
      unfold State.byteAt
      rw [State.storeBytes_get_other, State.storeByte_get]
      · simp only [Nat.add_zero] at hr
        simp [hr]
      · intro i hi
        rw [State.storeBytes_params, State.storeByte_params, show a + 1 + i = a + (i + 1) by omega]
        exact busAddr_ne (by omega) (by omega) (by omega)
    | succ j =>
      have e : a + (j + 1) = a + 1 + j := by omega
      rw [e] at hr ⊢
      rw [ih _ _ (by simpa using h) (by simp; omega) (by simpa using hr)]
      rfl

/-- A store leaves every cell that its addresses do not reach. -/
theorem State.wrote_get_other (s : State) (a : Long) (sz : Size) (v : Long) {b : Nat}
    (h : ∀ j < sz.bytes, b ≠ busAddr s.params (a.toNat + j)) : (s.wrote a sz v).mem.get b = s.mem.get b :=
  State.storeBytes_get_other _ _ _ (by rwa [operandBytes_length])

/-- What was stored reads back at its size, in memory that is no rom (R63, R64). -/
theorem State.wrote_read (s : State) (a : Long) (sz : Size) (v : Long) (hb : sz.bytes ≤ 2 ^ s.params.addrBits)
    (hr : ∀ j < sz.bytes, kindAt s.params (a.toNat + j) ≠ .rom) :
    (s.wrote a sz v).readAt a.toNat sz = trunc sz v := by
  have g : ∀ j (hj : j < (operandBytes sz v).length),
      (s.wrote a sz v).byteAt (a.toNat + j) = (operandBytes sz v)[j] := fun j hj =>
    State.storeBytes_get_stored _ _ _ hj (by rwa [operandBytes_length])
      (hr j (by rwa [operandBytes_length] at hj))
  cases sz with
  | b => 
    have g0 := g 0 (by simp [operandBytes])
    simp only [Nat.add_zero] at g0
    simp only [State.readAt, g0]
    rfl
  | w =>
    have g0 := g 0 (by simp [operandBytes])
    have g1 := g 1 (by simp [operandBytes])
    simp only [Nat.add_zero] at g0
    simp only [State.readAt, g0, g1, operandBytes, List.getElem_cons_zero, List.getElem_cons_succ, trunc]
    congr 1
    ext i hi
    simp only [BitVec.getElem_append, BitVec.getElem_setWidth, BitVec.getElem_extractLsb']
    split
    · rfl
    · congr 1; omega
  | l =>
    have g0 := g 0 (by simp [operandBytes])
    have g1 := g 1 (by simp [operandBytes])
    have g2 := g 2 (by simp [operandBytes])
    have g3 := g 3 (by simp [operandBytes])
    simp only [Nat.add_zero] at g0
    simp only [State.readAt, g0, g1, g2, g3, operandBytes, List.getElem_cons_zero, List.getElem_cons_succ, trunc]
    ext i hi
    simp only [BitVec.getElem_append, BitVec.getElem_setWidth, BitVec.getElem_extractLsb']
    split
    · exact (BitVec.getLsbD_eq_getElem _)
    · split
      · rw [← BitVec.getLsbD_eq_getElem]; congr 1; omega
      · split
        · rw [← BitVec.getLsbD_eq_getElem]; congr 1; omega
        · rw [← BitVec.getLsbD_eq_getElem]; congr 1; omega

/-! ## Accesses -/

theorem accessCheck_of_readable {s : State} {a : Long} {sz : Size} (h : readable s a sz = true) :
    accessCheck s.params a sz = none := by simpa [readable] using h

theorem writeCheck_of_writable {s : State} {a : Long} {sz : Size} (h : writable s a sz = true) :
    writeCheck s.params a sz = none := by simpa [writable] using h

/-- What can be written can be read. -/
theorem readable_of_writable {s : State} {a : Long} {sz : Size} (h : writable s a sz = true) :
    readable s a sz = true := by
  have hw := writeCheck_of_writable h
  unfold writeCheck at hw
  unfold readable
  split at hw
  · cases hw
  · next e => simp [e]

/-- An access that succeeds stays below the top of the address space (R61). -/
theorem readable_bound {s : State} {a : Long} {sz : Size} (h : readable s a sz = true) :
    a.toNat + sz.bytes ≤ 2 ^ 32 := by
  have hc := accessCheck_of_readable h
  unfold accessCheck at hc
  split at hc
  · cases hc
  · split at hc
    · cases hc
    · omega

/-- Every read that succeeds answers the bytes of memory and changes nothing. -/
theorem memRead_run {s : State} {a : Long} {sz : Size} (h : readable s a sz = true) :
    memRead a sz s = .ok (s.readAt a.toNat sz) s := by
  rw [memRead, M_bind_guard, accessCheck_of_readable h]
  rfl

/-- All a read can do. -/
theorem memRead_cases (a : Long) (sz : Size) (s : State) :
    memRead a sz s = match accessCheck s.params a sz with
      | none => .ok (s.readAt a.toNat sz) s
      | some e => .error e s := by
  rw [memRead, M_bind_guard]
  rfl

/-- Every write that succeeds stores the operand's bytes. -/
theorem memWrite_run {s : State} {a : Long} {sz : Size} (h : writable s a sz = true) (v : Long) :
    memWrite a sz v s = .ok () (s.wrote a sz v) := by
  rw [memWrite, M_bind_guard, writeCheck_of_writable h]
  rfl

/-- All a write can do. -/
theorem memWrite_cases (a : Long) (sz : Size) (v : Long) (s : State) :
    memWrite a sz v s = match writeCheck s.params a sz with
      | none => .ok () (s.wrote a sz v)
      | some e => .error e s := by
  rw [memWrite, M_bind_guard]
  rfl

/-- A push that can be made stores below SP and moves SP. -/
theorem push_run {s : State} {sz : Size} (h : pushable s sz = true) (v : Long) :
    push sz v s = .ok () (s.pushed sz v) := by
  rw [push, getSp, M_bind_read, M_bind_ok (memWrite_run h v)]
  rfl

/-- Extension words that can be fetched change nothing. -/
theorem touchExt_run {s : State} {k n : Nat} (h : fetchable s k n = true) : touchExt k n s = .ok () s := by
  induction n generalizing k with
  | zero => rfl
  | succ n ih =>
    simp only [fetchable, List.all_eq_true, List.mem_range] at h
    have h0 := h 0 (by omega)
    simp only [touchExt, M_bind_run]
    rw [M_guard_pass (by simpa using h0)]
    refine ih ?_
    simp only [fetchable, List.all_eq_true, List.mem_range]
    intro j hj
    have := h (j + 1) (by omega)
    rwa [show k + 1 + j = k + (j + 1) by omega]

/-- A fetch of extension words never changes the state. -/
theorem touchExt_state {s t : State} {k n : Nat} (h : touchExt k n s = .ok () t) : t = s := by
  induction n generalizing k with
  | zero => cases h; rfl
  | succ n ih =>
    simp only [touchExt, M_bind_eq_ok] at h
    obtain ⟨_, s', hg, hr⟩ := h
    obtain ⟨_, rfl⟩ := M_guard_eq_ok.1 hg
    exact ih hr

/-! ## Completing an instruction -/

theorem traceAction_untraced {s : State} (h : untraced s = true) (b : Bool) :
    traceAction s.params s.ctx.sr b = .none := by
  unfold traceAction
  unfold untraced srTraced at h
  cases hp : s.params.tracePolicy <;> simp_all

/-- An instruction that completes with no trace pending leaves the pc its flow says, then the scheduler has its say. -/
theorem complete_run {s : State} (h : untraced s = true) (words : Nat) (t : State) (f : Flow) :
    complete words s t f = .next (f.settle (t.withPc (f.target (s.after words)))) := by
  unfold complete
  rw [traceAction_untraced h]
  split
  · rfl
  · next e => split at e <;> cases e
  · next e => split at e <;> cases e

/-- An instruction whose computation answers. -/
theorem runInstr_ok {s t : State} {words : Nat} {body : M Flow} {f : Flow} (hu : untraced s = true)
    (h : body s = .ok f t) :
    runInstr words body s = .next (f.settle (t.withPc (f.target (s.after words)))) := by
  unfold runInstr
  rw [h]
  exact complete_run hu words t f

/-- An instruction that goes on to the next one. -/
theorem runInstr_next {s t : State} {words : Nat} {body : M Flow} (hu : untraced s = true)
    (h : body s = .ok .next t) : runInstr words body s = .next (s.finished words t) := runInstr_ok hu h

/-- An instruction that transfers control. -/
theorem runInstr_goto {s t : State} {words : Nat} {body : M Flow} {a : Long} (hu : untraced s = true)
    (h : body s = .ok (.goto a) t) : runInstr words body s = .next (t.withPc a) := runInstr_ok hu h

/-- An instruction that raises. -/
theorem runInstr_exc {s t : State} {words : Nat} {body : M Flow} {e : Exc} (h : body s = .error (.exc e) t) :
    runInstr words body s = raiseExc words s t e := by
  unfold runInstr; rw [h]

/-- An instruction the model refuses. -/
theorem runInstr_refused {s t : State} {words : Nat} {body : M Flow} {r : Refusal}
    (h : body s = .error (.refuse r) t) : runInstr words body s = .refused r := by
  unfold runInstr; rw [h]

/-! ## Exception entry (R460) -/

theorem writable_congr {s t : State} (h : t.params = s.params) (a : Long) (sz : Size) :
    writable t a sz = writable s a sz := by unfold writable; rw [h]

theorem readable_congr {s t : State} (h : t.params = s.params) (a : Long) (sz : Size) :
    readable t a sz = readable s a sz := by unfold readable; rw [h]

@[simp] theorem State.pushed_params (s : State) (sz : Size) (v : Long) : (s.pushed sz v).params = s.params := by
  simp [State.pushed]

@[simp] theorem State.pushed_cur (s : State) (sz : Size) (v : Long) : (s.pushed sz v).cur = s.cur := by
  simp [State.pushed]

/-- A push moves SP and nothing else of the context. -/
@[simp] theorem State.pushed_ctx (s : State) (sz : Size) (v : Long) :
    (s.pushed sz v).ctx = s.ctx.withSp (s.ctx.sp - stepOf sz) := by
  simp [State.pushed, State.withSp]

@[simp] theorem State.entering_params (s : State) (l : Option (BitVec 3)) : (s.entering l).params = s.params := rfl

@[simp] theorem State.entering_ctx (s : State) (l : Option (BitVec 3)) :
    (s.entering l).ctx = { s.ctx with sr := srForEntry s.ctx.sr l } := State.ctx_withCtx _ _

/-- The handler address of a vector that can be read. -/
theorem readVector_run {s : State} {k : Byte} (h : readable s (vectorAddr s k) .l = true) :
    readVector k s = .ok (s.readAt (vectorAddr s k).toNat .l) s := by
  rw [readVector, M_bind_read]
  exact memRead_run h

/-- Entry with a frame that can be pushed and a vector that can be read. -/
theorem enterException_run {s : State} {k : Byte} {spc : Long} {ipc : Option Long} {level : Option (BitVec 3)}
    (h : entryReady s k ipc.isSome = true) :
    enterException k spc ipc level s = .ok () (s.entered k spc ipc level) := by
  cases ipc with
  | none =>
    simp only [entryReady, Option.isSome_none, Bool.not_false, Bool.true_or, Bool.true_and, Bool.and_eq_true,
      Bool.false_eq_true, if_false] at h
    obtain ⟨⟨⟨h1, h2⟩, h3⟩, h4⟩ := h
    have e : enterException k spc none level s = (do
        push .w ((formatWord false k).setWidth 32)
        push .l spc
        push .w (s.srWord.setWidth 32)
        setPc (← readVector k) : M Unit) (s.entering level) := rfl
    rw [e, M_bind_ok (push_run (s := s.entering level) (by
      rw [pushable, State.entering_ctx]; simpa [Ctx.sp, stepOf, Size.bytes, writable] using h1) _)]
    rw [M_bind_ok (push_run (by
      rw [pushable, State.pushed_ctx, State.entering_ctx, Ctx.sp_withSp]
      simpa [Ctx.sp, stepOf, Size.bytes, writable, BitVec.sub_sub] using h2) _)]
    rw [M_bind_ok (push_run (by
      rw [pushable, State.pushed_ctx, State.pushed_ctx, State.entering_ctx, Ctx.sp_withSp, Ctx.sp_withSp]
      simpa [Ctx.sp, stepOf, Size.bytes, writable, BitVec.sub_sub] using h3) _)]
    rw [M_bind_ok (readVector_run (by
      rw [readable_congr (s := s) (by simp)]
      simpa [vectorAddr] using h4))]
    simp [setPc, State.entered, State.framed, vectorAddr, State.withPc]
  | some a =>
    simp only [entryReady, Option.isSome_some, Bool.not_true, Bool.false_or, Bool.and_eq_true, if_true] at h
    obtain ⟨⟨h0, ⟨⟨h1, h2⟩, h3⟩⟩, h4⟩ := h
    have e : enterException k spc (some a) level s = (do
        push .l a
        push .w ((formatWord true k).setWidth 32)
        push .l spc
        push .w (s.srWord.setWidth 32)
        setPc (← readVector k) : M Unit) (s.entering level) := rfl
    rw [e, M_bind_ok (push_run (s := s.entering level) (by
      rw [pushable, State.entering_ctx]; simpa [Ctx.sp, stepOf, Size.bytes, writable] using h0) _)]
    rw [M_bind_ok (push_run (by
      rw [pushable, State.pushed_ctx, State.entering_ctx, Ctx.sp_withSp]
      simpa [Ctx.sp, stepOf, Size.bytes, writable, BitVec.sub_sub] using h1) _)]
    rw [M_bind_ok (push_run (by
      rw [pushable, State.pushed_ctx, State.pushed_ctx, State.entering_ctx, Ctx.sp_withSp, Ctx.sp_withSp]
      simpa [Ctx.sp, stepOf, Size.bytes, writable, BitVec.sub_sub] using h2) _)]
    rw [M_bind_ok (push_run (by
      rw [pushable, State.pushed_ctx, State.pushed_ctx, State.pushed_ctx, State.entering_ctx, Ctx.sp_withSp,
        Ctx.sp_withSp, Ctx.sp_withSp]
      simpa [Ctx.sp, stepOf, Size.bytes, writable, BitVec.sub_sub] using h3) _)]
    rw [M_bind_ok (readVector_run (by
      rw [readable_congr (s := s) (by simp)]
      simpa [vectorAddr] using h4))]
    simp [setPc, State.entered, State.framed, vectorAddr, State.withPc]

/-- The exception is taken. -/
theorem takeEntry_run {s : State} {k : Byte} {spc : Long} {ipc : Option Long} {level : Option (BitVec 3)}
    (h : entryReady s k ipc.isSome = true) :
    takeEntry (enterException k spc ipc level) s = .next (s.entered k spc ipc level) := by
  unfold takeEntry
  rw [enterException_run h]

/-- AddressError and BusError end as FAULT_POLICY says. -/
theorem memFault_ends (u : State) (kind : MemFault) (x pc : Long) :
    endsFaulted u kind x pc (memFault kind x pc u) := by
  refine ⟨fun h => ?_, fun h hr => ?_⟩
  · simp only [memFault, h]
  · simp only [memFault, h]
    exact takeEntry_run (ipc := some x) hr

/-- An instruction that ends in a memory fault. -/
theorem runInstr_faulted {words : Nat} {s u : State} {body : M Flow} {kind : MemFault} {x : Long}
    (h : body s = .error (.exc (kind.exc x)) u) : endsFaulted u kind x s.ctx.pc (runInstr words body s) := by
  rw [runInstr_exc h]
  cases kind <;> exact memFault_ends _ _ _ _

end Sys2Proof.Machine
end

