-- ==== Sys2Proof/Laws/Operands.lean ====
section
/-! SUPPORT. Sys2Proof/Laws/Operands.lean: what reading, writing and modifying an operand does, said once in the terms
of Sys2Proof/Safety.lean: where the operand is, what it holds, and the state left. -/

namespace Sys2Proof.Machine

theorem fetchable_split {s : State} {k m n : Nat} (h : fetchable s k (m + n) = true) :
    fetchable s k m = true ∧ fetchable s (k + m) n = true := by
  simp only [fetchable, List.all_eq_true, List.mem_range] at h ⊢
  refine ⟨fun j hj => h j (by omega), fun j hj => ?_⟩
  have := h (m + j) (by omega)
  rwa [show k + (m + j) = k + m + j by omega] at this

/-- The words of an index extension: itself and its base displacement. -/
theorem idxExt_words (x : IdxExt) (h : idxUsable x = true) :
    x.words.length = 1 + (match x with
      | .full _ _ _ bd => baseDispCount bd
      | _ => 0) := by
  cases x with
  | brief => rfl
  | full i bs is bd => cases bd <;> rfl
  | illegal => cases h
  | unstated => cases h

/-- An indexed address whose words can be fetched and have a meaning. -/
theorem indexedAddr_run {s : State} {base : Long} {x : IdxExt} {k : Nat}
    (hf : fetchable s k x.words.length = true) (hu : idxUsable x = true) :
    indexedAddr base x k s = .ok (indexedAt s base x) s := by
  rw [idxExt_words x hu] at hf
  obtain ⟨h1, h2⟩ := fetchable_split hf
  unfold indexedAddr
  rw [M_bind_ok (touchExt_run h1)]
  cases x with
  | brief i d => rfl
  | full i bs is bd =>
    show (touchExt (k + 1) (baseDispCount bd) >>= _) s = _
    rw [M_bind_ok (touchExt_run h2)]
    rfl
  | illegal => cases hu
  | unstated => cases hu

/-- The place of an operand whose words can be fetched. -/
theorem locate_run {s : State} {ea : EA} {sz : Size} {k : Nat} (h : located s ea sz k = true) :
    locate ea sz k s = .ok (placeOf s ea sz k) s := by
  simp only [located, Bool.and_eq_true] at h
  obtain ⟨hf, hu⟩ := h
  cases ea with
  | dn | an | ind | postinc | predec => rfl
  | disp n d =>
    rw [locate, M_bind_ok (touchExt_run (n := 1) hf)]
    rfl
  | idx n x =>
    rw [locate, getA, M_bind_read, M_bind_ok (indexedAddr_run (by simpa [EA.extWords, EA.exts] using hf) hu)]
    rfl
  | absW w =>
    rw [locate, M_bind_ok (touchExt_run (n := 1) hf)]
    rfl
  | absL a =>
    rw [locate, M_bind_ok (touchExt_run (n := 2) hf)]
    rfl
  | pcDisp d =>
    rw [locate, M_bind_ok (touchExt_run (n := 1) hf)]
    rfl
  | pcIdx x =>
    rw [locate, getPc, M_bind_read, M_bind_ok (indexedAddr_run (by simpa [EA.extWords, EA.exts] using hf) hu)]
    rfl
  | imm v =>
    rw [locate, M_bind_ok (touchExt_run hf)]
    rfl

/-- Locating an operand never changes the state. -/
theorem indexedAddr_state {s t : State} {base a : Long} {x : IdxExt} {k : Nat}
    (h : indexedAddr base x k s = .ok a t) : t = s := by
  simp only [indexedAddr, M_bind_eq_ok] at h
  obtain ⟨_, s1, h1, h2⟩ := h
  cases touchExt_state h1
  cases x with
  | brief i d => cases h2; rfl
  | full i bs is bd =>
    obtain ⟨_, s2, h3, h4⟩ := M_bind_eq_ok.1 h2
    cases touchExt_state h3
    cases h4
    rfl
  | illegal => cases h2
  | unstated => cases h2

theorem locate_state {s t : State} {ea : EA} {sz : Size} {k : Nat} {p : Place}
    (h : locate ea sz k s = .ok p t) : t = s := by
  cases ea with
  | dn | an | ind | postinc | predec => cases h; rfl
  | disp | absW | absL | pcDisp | imm =>
    obtain ⟨_, s1, h1, h2⟩ := M_bind_eq_ok.1 h
    cases touchExt_state h1
    cases h2
    rfl
  | idx | pcIdx =>
    obtain ⟨_, s1, h1, h2⟩ := M_bind_eq_ok.1 h
    cases h1
    obtain ⟨_, s2, h3, h4⟩ := M_bind_eq_ok.1 h2
    cases indexedAddr_state h3
    cases h4
    rfl

/-- The operand at a place that can be read. -/
theorem readLoc_run {s : State} {sz : Size} {l : Loc} (h : readableAt s sz l = true) :
    readLoc sz l s = .ok (valueAt s sz l) s := by
  cases l with
  | mem a => exact memRead_run h
  | dreg | areg | imm => rfl

/-- A store at a place that can be written. -/
theorem writeLoc_run {s : State} {sz : Size} {l : Loc} (h : writableAt s sz l = true) (v : Long) :
    writeLoc sz v l s = .ok () (s.storeAt sz v l) := by
  cases l with
  | mem a => exact memWrite_run h v
  | dreg => rfl
  | areg => cases h
  | imm => cases h

/-- The register update of a mode. -/
theorem commit_run (s : State) (p : Place) : commit p s = .ok () (s.bump p) := by
  unfold commit State.bump
  cases p.upd with
  | none => rfl
  | some u => rfl

/-- What is read at a place depends on memory and the registers. -/
theorem writableAt_congr {s t : State} (h : t.params = s.params) (sz : Size) (l : Loc) :
    writableAt t sz l = writableAt s sz l := by
  cases l <;> simp [writableAt, writable_congr h]

/-- A source operand that can be read. -/
theorem readEA_run {s : State} {ea : EA} {sz : Size} {k : Nat} (h : sourceReady s ea sz k = true) :
    readEA ea sz k s = .ok (valueAt s sz (placeOf s ea sz k).loc) (s.bump (placeOf s ea sz k)) := by
  simp only [sourceReady, Bool.and_eq_true] at h
  rw [readEA, M_bind_ok (locate_run h.1), M_bind_ok (readLoc_run h.2), M_bind_ok (commit_run _ _)]
  rfl

/-- A destination operand that can be written. -/
theorem writeEA_run {s : State} {ea : EA} {sz : Size} {k : Nat} (h : targetReady s ea sz k = true) (v : Long) :
    writeEA ea sz k v s = .ok () ((s.storeAt sz v (placeOf s ea sz k).loc).bump (placeOf s ea sz k)) := by
  simp only [targetReady, Bool.and_eq_true] at h
  rw [writeEA, M_bind_ok (locate_run h.1), M_bind_ok (writeLoc_run h.2 v), commit_run]

/-- A read-modify-write of one operand by a computation that changes no parameter. -/
theorem modifyEA_run {s t : State} {ea : EA} {sz : Size} {k : Nat} {f : Long → Ccr → M (Long × Ccr)} {v : Long}
    {c : Ccr} (h : modifyReady s ea sz k = true)
    (hf : f (valueAt s sz (placeOf s ea sz k).loc) s.ctx.ccr s = .ok (v, c) t) (hp : t.params = s.params) :
    modifyEA ea sz k f s =
      .ok () (((t.storeAt sz v (placeOf s ea sz k).loc).bump (placeOf s ea sz k)).withCcr c) := by
  simp only [modifyReady, Bool.and_eq_true] at h
  rw [modifyEA, M_bind_ok (locate_run h.1.1), M_bind_ok (readLoc_run h.1.2), getCcr, M_bind_read, M_bind_ok hf,
    M_bind_ok (writeLoc_run (by rw [writableAt_congr hp]; exact h.2) v), M_bind_ok (commit_run _ _)]
  rfl

/-- A change of the condition codes and a store at a place may be exchanged. -/
theorem State.storeAt_withCcr (s : State) (sz : Size) (v : Long) (l : Loc) (c : Ccr) :
    (s.withCcr c).storeAt sz v l = (s.storeAt sz v l).withCcr c := by
  cases l with
  | dreg r => simp [State.storeAt, State.withD, State.withCcr, Ctx.withD]
  | mem a =>
    show (s.withCtx _).wrote a sz v = _
    rw [State.wrote_withCtx, State.storeAt, State.withCcr, State.wrote_ctx]
  | areg | imm => rfl

/-- The same for the register update of a mode. -/
theorem State.bump_withCcr (s : State) (p : Place) (c : Ccr) : (s.withCcr c).bump p = (s.bump p).withCcr c := by
  unfold State.bump
  cases p.upd with
  | none => rfl
  | some u =>
    obtain ⟨r, v⟩ := u
    have sp : ∀ x : Ctx, ({ x with sr := putCcr x.sr c } : Ctx).withSp v = { x.withSp v with sr := putCcr x.sr c } := by
      intro x; unfold Ctx.withSp; simp only [srS_putCcr]; split <;> rfl
    have ha : ∀ x : Ctx, ({ x with sr := putCcr x.sr c } : Ctx).withA r v = { x.withA r v with sr := putCcr x.sr c } := by
      intro x; unfold Ctx.withA; split
      · rfl
      · exact sp x
    simp [State.withA, State.withCcr, ha]

/-- A read-modify-write that sets the flags before it stores leaves what the other order leaves. -/
theorem modifyEAFlagsFirst_run {s : State} {ea : EA} {sz : Size} {k : Nat} {f : Long → Ccr → Long × Ccr}
    (h : modifyReady s ea sz k = true) :
    modifyEAFlagsFirst ea sz k f s =
      let p := placeOf s ea sz k
      let r := f (valueAt s sz p.loc) s.ctx.ccr
      .ok () (((s.storeAt sz r.1 p.loc).bump p).withCcr r.2) := by
  simp only [modifyReady, Bool.and_eq_true] at h
  rw [modifyEAFlagsFirst, M_bind_ok (locate_run h.1.1), M_bind_ok (readLoc_run h.1.2), getCcr, M_bind_read]
  refine (M_bind_ok (setCcr_run _ _) _).trans ((M_bind_ok (writeLoc_run (s := s.withCcr _) ?_ _) _).trans ?_)
  · exact (writableAt_congr (s := s) rfl _ _).trans h.2
  · rw [commit_run, State.storeAt_withCcr, State.bump_withCcr]

/-- The address of a control operand. -/
theorem addrEA_run {s : State} {ea : EA} {k : Nat} (h : addressReady s ea k = true) :
    addrEA ea k s = .ok (addrOf s ea k) s := by
  simp only [addressReady, Bool.and_eq_true] at h
  rw [addrEA, M_bind_ok (locate_run h.1)]
  unfold addrOf
  cases hl : (placeOf s ea .l k).loc with
  | mem a => rfl
  | dreg => simp [hl] at h
  | areg => simp [hl] at h
  | imm => simp [hl] at h

/-! ## Fetches that fail -/

/-- The first extension word that cannot be fetched ends the instruction. -/
theorem touchExt_stop {s : State} {k n j : Nat} {e : Stop} (hj : j < n) (hf : fetchable s k j = true)
    (he : fetchCheck s (extAddr s.ctx.pc (k + j)) = some e) : touchExt k n s = .error e s := by
  induction j generalizing k n with
  | zero =>
    obtain ⟨m, rfl⟩ : ∃ m, n = m + 1 := ⟨n - 1, by omega⟩
    exact M_bind_error (M_guard_stop he) _
  | succ j ih =>
    obtain ⟨m, rfl⟩ : ∃ m, n = m + 1 := ⟨n - 1, by omega⟩
    obtain ⟨h1, h2⟩ := fetchable_split (m := 1) (n := j) (by rwa [Nat.add_comm])
    rw [touchExt, M_bind_ok (M_guard_pass (by simpa [fetchable] using h1))]
    exact ih (by omega) h2 (by rwa [show k + 1 + j = k + (j + 1) by omega])

/-- So does the first word of an operand. -/
theorem locate_stop {s : State} {ea : EA} {sz : Size} {k j : Nat} {e : Stop} (hj : j < ea.extWords sz)
    (hf : fetchable s k j = true) (he : fetchCheck s (extAddr s.ctx.pc (k + j)) = some e) :
    locate ea sz k s = .error e s := by
  have idx : ∀ (b : Long) (x : IdxExt), j < x.words.length → indexedAddr b x k s = .error e s := by
    intro b x hx
    unfold indexedAddr
    cases j with
    | zero => exact M_bind_error (touchExt_stop (j := 0) (by omega) (by simp [fetchable]) he) _
    | succ j =>
      obtain ⟨h1, h2⟩ := fetchable_split (m := 1) (n := j) (by rwa [Nat.add_comm])
      rw [M_bind_ok (touchExt_run h1)]
      cases x with
      | brief | illegal | unstated => simp [IdxExt.words] at hx
      | full i bs is bd =>
        refine M_bind_error (touchExt_stop (j := j) ?_ h2 (by rwa [show k + 1 + j = k + (j + 1) by omega])) _
        cases bd <;> simp [IdxExt.words, baseDispCount, longWords] at hx ⊢ <;> omega
  have t : ∀ n, j < n → touchExt k n s = .error e s := fun n hn => touchExt_stop hn hf he
  cases ea with
  | dn | an | ind | postinc | predec => simp [EA.extWords, EA.exts] at hj
  | disp | absW | absL | pcDisp | imm => exact M_bind_error (t _ hj) _
  | idx n x =>
    rw [locate, getA, M_bind_read]
    exact M_bind_error (idx _ _ hj) _
  | pcIdx x =>
    rw [locate, getPc, M_bind_read]
    exact M_bind_error (idx _ _ hj) _

/-! ## What these updates leave -/

@[simp] theorem State.bump_params (s : State) (p : Place) : (s.bump p).params = s.params := by
  unfold State.bump; split <;> rfl

@[simp] theorem State.bump_mem (s : State) (p : Place) : (s.bump p).mem = s.mem := by
  unfold State.bump; split <;> rfl

@[simp] theorem State.bump_stale (s : State) (p : Place) : (s.bump p).stale = s.stale := by
  unfold State.bump; split <;> rfl

@[simp] theorem State.bump_draws (s : State) (p : Place) : (s.bump p).draws = s.draws := by
  unfold State.bump; split <;> rfl

@[simp] theorem State.bump_cur (s : State) (p : Place) : (s.bump p).cur = s.cur := by
  unfold State.bump; split <;> rfl

@[simp] theorem State.bump_sr (s : State) (p : Place) : (s.bump p).ctx.sr = s.ctx.sr := by
  unfold State.bump; split <;> simp

@[simp] theorem State.bump_pc (s : State) (p : Place) : (s.bump p).ctx.pc = s.ctx.pc := by
  unfold State.bump; split <;> simp

@[simp] theorem State.bump_ccr (s : State) (p : Place) : (s.bump p).ctx.ccr = s.ctx.ccr := by
  simp [Ctx.ccr]

/-- The register update of a mode leaves every data register. -/
@[simp] theorem State.bump_getD (s : State) (p : Place) (r : BitVec 3) : (s.bump p).ctx.getD r = s.ctx.getD r := by
  unfold State.bump; split <;> simp

@[simp] theorem State.storeAt_params (s : State) (sz : Size) (v : Long) (l : Loc) :
    (s.storeAt sz v l).params = s.params := by cases l <;> simp [State.storeAt]

@[simp] theorem State.storeAt_cur (s : State) (sz : Size) (v : Long) (l : Loc) :
    (s.storeAt sz v l).cur = s.cur := by cases l <;> simp [State.storeAt]

@[simp] theorem State.storeAt_draws (s : State) (sz : Size) (v : Long) (l : Loc) :
    (s.storeAt sz v l).draws = s.draws := by cases l <;> simp [State.storeAt]

@[simp] theorem State.storeAt_sr (s : State) (sz : Size) (v : Long) (l : Loc) :
    (s.storeAt sz v l).ctx.sr = s.ctx.sr := by cases l <;> simp [State.storeAt]

@[simp] theorem State.storeAt_pc (s : State) (sz : Size) (v : Long) (l : Loc) :
    (s.storeAt sz v l).ctx.pc = s.ctx.pc := by cases l <;> simp [State.storeAt]

/-- A store at a place leaves every cell that no address of a memory operand reaches. -/
theorem State.storeAt_get_other (s : State) (sz : Size) (v : Long) (l : Loc) {b : Nat}
    (h : ∀ a, l = .mem a → ∀ j < sz.bytes, b ≠ busAddr s.params (a.toNat + j)) :
    (s.storeAt sz v l).mem.get b = s.mem.get b := by
  cases l with
  | mem a => exact State.wrote_get_other s a sz v (h a rfl)
  | dreg | areg | imm => rfl

/-- The advice to refuse is followed under one policy only, and changes nothing under the other. -/
theorem refuseUndefined_run (r : Refusal) (s : State) :
    refuseUndefined r s = if s.params.undefined = .refuse then .error (.refuse r) s else .ok () s := by
  simp only [refuseUndefined, M.guard]
  by_cases h : s.params.undefined = .refuse <;> simp [h]

/-! ## Words fetched after a store of the same instruction -/

/-- Words that the store left as they were are the decoded ones. -/
theorem laterWord_same {s t : State} {k : Nat} {w : Word}
    (h : t.codeWord (extAddr s.ctx.pc k) = s.codeWord (extAddr s.ctx.pc k)) : laterWord s t k w = w := if_pos h

/-- Where memory held the decoded word, the word fetched is the one memory holds now (R65). -/
theorem laterWord_eq {s t : State} {k : Nat} {w : Word} (h : s.codeWord (extAddr s.ctx.pc k) = w) :
    laterWord s t k w = t.codeWord (extAddr s.ctx.pc k) := by
  simp only [laterWord]
  split
  · next e => rw [e, h]
  · rfl

/-- A displacement has the length it was decoded with. -/
@[simp] theorem laterDisp_words (s t : State) (d : Disp) : (laterDisp s t d).exts.length = d.exts.length := by
  cases d <;> rfl

end Sys2Proof.Machine
end

