-- ==== Sys2Proof/Laws/Invariant.lean ====
section
/-! SUPPORT. Sys2Proof/Laws/Invariant.lean: what survives the shared operations. Every memory operation keeps the
canonical form, and the memory after reset has it. `M.Keeps P x` says that a computation keeps a property of states;
`Closed P` that P survives each primitive update. From `Closed P` each lemma below gives `Keeps P` of one operation, up
to taking an exception and to running one instruction. -/

namespace Sys2Proof.Machine

/-! ## The canonical form of memory -/

/-- The memory after reset is in canonical form. -/
theorem State.reset_mem_wf : State.reset.mem.wf := Memory.wf_nil

/-- Every cell an address reaches is below the top of memory. -/
theorem busAddr_lt {p : Params} {a n : Nat} (h : a < n) : busAddr p a < n := Nat.lt_of_le_of_lt (Nat.mod_le _ _) h

theorem State.storeByte_wf {s : State} {a : Nat} {v : Byte} (h : s.mem.wf) (ha : a < 2 ^ 32) :
    (s.storeByte a v).mem.wf := by
  unfold State.storeByte
  split
  · exact h
  · exact Memory.set_wf h (busAddr_lt ha)

theorem State.storeBytes_wf {s : State} {a : Nat} {l : List Byte} (h : s.mem.wf) (ha : a + l.length ≤ 2 ^ 32) :
    (s.storeBytes a l).mem.wf := by
  induction l generalizing s a with
  | nil => exact h
  | cons v l ih =>
    rw [List.length_cons] at ha
    exact ih (State.storeByte_wf h (by omega)) (by omega)

/-- A write that can be made keeps the canonical form. -/
theorem State.wrote_wf {s : State} {a : Long} {sz : Size} (h : s.mem.wf) (hw : writable s a sz = true) (v : Long) :
    (s.wrote a sz v).mem.wf := by
  refine State.storeBytes_wf h ?_
  rw [operandBytes_length]
  exact readable_bound (readable_of_writable hw)

theorem placeBytes_wf {s : State} {a : Long} {l : List Byte} (h : s.mem.wf) : (placeBytes s a l).mem.wf := by
  induction l generalizing s a with
  | nil => exact h
  | cons v l ih => exact ih (Memory.set_wf h (busAddr_lt a.isLt))

/-! ## Properties that computations keep -/

/-- A computation keeps a property of states, whether it answers or stops. -/
def M.Keeps (P : State → Prop) {α : Type} (x : M α) : Prop :=
  ∀ s, P s → match x s with
    | .ok _ t => P t
    | .error _ t => P t

variable {P : State → Prop} {α β : Type}

theorem keeps_pure (a : α) : (pure a : M α).Keeps P := fun _ h => h

theorem keeps_read (f : State → α) : (M.read f).Keeps P := fun _ h => h

theorem keeps_raise (e : Exc) : (M.raise e : M α).Keeps P := fun _ h => h

theorem keeps_refuse (r : Refusal) : (M.refuse r : M α).Keeps P := fun _ h => h

theorem keeps_guard (c : State → Option Stop) : (M.guard c).Keeps P := fun s h => by
  unfold M.guard
  cases c s <;> exact h

theorem keeps_update {f : State → State} (hf : ∀ s, P s → P (f s)) : (M.update f).Keeps P := fun s h => hf s h

theorem keeps_bind {x : M α} {f : α → M β} (hx : x.Keeps P) (hf : ∀ a, (f a).Keeps P) : (x >>= f).Keeps P := by
  intro s h
  have h1 := hx s h
  rw [M_bind_run]
  cases e : x s with
  | ok a t => rw [e] at h1; exact hf a t h1
  | error e' t => rw [e] at h1; exact h1

theorem keeps_map {x : M α} (g : α → β) (hx : x.Keeps P) : (g <$> x).Keeps P := by
  intro s h
  have h1 := hx s h
  rw [M_map_run]
  cases e : x s <;> (rw [e] at h1; exact h1)

theorem keeps_ite {c : Prop} [Decidable c] {x y : M α} (hx : x.Keeps P) (hy : y.Keeps P) :
    (if c then x else y).Keeps P := by
  split
  · exact hx
  · exact hy

/-- What every part of the machine outside the system instructions does: the property survives each primitive update. -/
structure Closed (P : State → Prop) : Prop where
  d : ∀ s r v, P s → P (s.withCtx (s.ctx.withD r v))
  a : ∀ s r v, P s → P (s.withCtx (s.ctx.withA r v))
  sp : ∀ s v, P s → P (s.withCtx (s.ctx.withSp v))
  ccr : ∀ s f, P s → P (s.withCtx { s.ctx with sr := putCcr s.ctx.sr f })
  pc : ∀ s v, P s → P (s.withCtx { s.ctx with pc := v })
  draws : ∀ s n, P s → P { s with draws := n }
  flush : ∀ s, P s → P s.flush
  store : ∀ s a v, a < 2 ^ 32 → P s → P (s.storeByte a v)
  enter : ∀ s l, P s → P (s.withCtx { s.ctx with sr := srForEntry s.ctx.sr l })
  mark : ∀ s m, P s → P { s with mark := m }

theorem keeps_getD (r : BitVec 3) : (getD r).Keeps P := keeps_read _

theorem keeps_getA (r : BitVec 3) : (getA r).Keeps P := keeps_read _

theorem keeps_getR (r : BitVec 4) : (getR r).Keeps P := keeps_read _

theorem keeps_getSp : getSp.Keeps P := keeps_read _

theorem keeps_getPc : getPc.Keeps P := keeps_read _

theorem keeps_getCcr : getCcr.Keeps P := keeps_read _

theorem keeps_requireSupervisor : requireSupervisor.Keeps P := keeps_guard _

theorem keeps_refuseUndefined (r : Refusal) : (refuseUndefined r).Keeps P := keeps_guard _

theorem keeps_memRead (a : Long) (sz : Size) : (memRead a sz).Keeps P := keeps_bind (keeps_guard _) fun _ =>
  keeps_read _

theorem keeps_touchExt (k n : Nat) : (touchExt k n).Keeps P := by
  induction n generalizing k with
  | zero => exact keeps_pure _
  | succ n ih => exact keeps_bind (keeps_guard _) fun _ => ih _

theorem keeps_nextAddr (n : Nat) : (nextAddr n).Keeps P := keeps_bind keeps_getPc fun _ => keeps_pure _

theorem keeps_branchTarget (d : Disp) : (branchTarget d).Keeps P :=
  keeps_bind (keeps_touchExt _ _) fun _ => keeps_bind keeps_getPc fun _ => keeps_pure _

theorem keeps_readVector (k : Byte) : (readVector k).Keeps P := keeps_bind (keeps_read _) fun _ => keeps_memRead _ _

theorem keeps_specialWord (b : Bool) : (specialWord b).Keeps P :=
  keeps_bind (keeps_touchExt _ _) fun _ => keeps_ite (keeps_pure _) (keeps_refuse _)

theorem keeps_indexedAddr (b : Long) (x : IdxExt) (k : Nat) : (indexedAddr b x k).Keeps P := by
  refine keeps_bind (keeps_touchExt _ _) fun _ => ?_
  cases x with
  | brief => exact keeps_read _
  | full => exact keeps_bind (keeps_touchExt _ _) fun _ => keeps_read _
  | illegal => exact keeps_raise _
  | unstated => exact keeps_refuse _

theorem keeps_locate (ea : EA) (sz : Size) (k : Nat) : (locate ea sz k).Keeps P := by
  cases ea <;> unfold locate <;> first
    | exact keeps_pure _
    | exact keeps_read _
    | exact keeps_bind (keeps_touchExt _ _) fun _ => keeps_pure _
    | exact keeps_bind (keeps_touchExt _ _) fun _ => keeps_read _
    | exact keeps_bind (keeps_read _) fun _ => keeps_bind (keeps_indexedAddr _ _ _) fun _ => keeps_pure _

theorem keeps_readLoc (sz : Size) (l : Loc) : (readLoc sz l).Keeps P := by
  cases l with
  | mem => exact keeps_memRead _ _
  | dreg | areg => exact keeps_read _
  | imm => exact keeps_pure _

theorem keeps_addrEA (ea : EA) (k : Nat) : (addrEA ea k).Keeps P := by
  refine keeps_bind (keeps_locate _ _ _) fun p => ?_
  cases h : p.loc <;> first | exact keeps_pure _ | exact keeps_refuse _

section

variable (hP : Closed P)
include hP

theorem keeps_setD (r : BitVec 3) (sz : Size) (v : Long) : (setD r sz v).Keeps P := keeps_update fun s => hP.d s r _

theorem keeps_setA (r : BitVec 3) (v : Long) : (setA r v).Keeps P := keeps_update fun s => hP.a s r v

theorem keeps_setR (r : BitVec 4) (v : Long) : (setR r v).Keeps P := keeps_update fun s h => by
  unfold Ctx.withR
  split
  · exact hP.a s _ v h
  · exact hP.d s _ v h

theorem keeps_setSp (v : Long) : (setSp v).Keeps P := keeps_update fun s => hP.sp s v

theorem keeps_setCcr (f : Ccr) : (setCcr f).Keeps P := keeps_update fun s => hP.ccr s f

theorem keeps_setPc (v : Long) : (setPc v).Keeps P := keeps_update fun s => hP.pc s v

theorem keeps_flush : flushPipeline.Keeps P := keeps_update hP.flush

theorem keeps_draw : draw.Keeps P := fun s h => hP.draws s _ h

theorem keeps_drawCtxId : drawCtxId.Keeps P := keeps_bind (keeps_draw hP) fun _ => keeps_pure _

theorem keeps_drawBit : drawBit.Keeps P := keeps_bind (keeps_draw hP) fun _ => keeps_pure _

theorem keeps_drawSized (sz : Size) : (drawSized sz).Keeps P := keeps_bind (keeps_draw hP) fun _ => keeps_pure _

theorem closed_storeBytes {s : State} {a : Nat} {l : List Byte} (hs : P s) (ha : a + l.length ≤ 2 ^ 32) :
    P (s.storeBytes a l) := by
  induction l generalizing s a with
  | nil => exact hs
  | cons v l ih =>
    rw [List.length_cons] at ha
    exact ih (hP.store s a v (by omega) hs) (by omega)

/-- A write reaches only addresses below the top (R61). -/
theorem keeps_memWrite (a : Long) (sz : Size) (v : Long) : (memWrite a sz v).Keeps P := by
  intro s hs
  rw [memWrite_cases]
  cases h : writeCheck s.params a sz with
  | none =>
    refine closed_storeBytes hP hs ?_
    rw [operandBytes_length]
    exact readable_bound (readable_of_writable (by rw [writable, h]; rfl))
  | some e => exact hs

theorem keeps_push (sz : Size) (v : Long) : (push sz v).Keeps P :=
  keeps_bind keeps_getSp fun _ => keeps_bind (keeps_memWrite hP _ _ _) fun _ => keeps_setSp hP _

theorem keeps_commit (p : Place) : (commit p).Keeps P := by
  unfold commit
  split
  · exact keeps_pure _
  · exact keeps_setA hP _ _

theorem keeps_writeLoc (sz : Size) (v : Long) (l : Loc) : (writeLoc sz v l).Keeps P := by
  cases l with
  | dreg => exact keeps_setD hP _ _ _
  | mem => exact keeps_memWrite hP _ _ _
  | areg | imm => exact keeps_refuse _

theorem keeps_readEA (ea : EA) (sz : Size) (k : Nat) : (readEA ea sz k).Keeps P :=
  keeps_bind (keeps_locate _ _ _) fun _ => keeps_bind (keeps_readLoc _ _) fun _ =>
    keeps_bind (keeps_commit hP _) fun _ =>
    keeps_pure _

theorem keeps_writeEA (ea : EA) (sz : Size) (k : Nat) (v : Long) : (writeEA ea sz k v).Keeps P :=
  keeps_bind (keeps_locate _ _ _) fun _ => keeps_bind (keeps_writeLoc hP _ _ _) fun _ => keeps_commit hP _

theorem keeps_modifyEA (ea : EA) (sz : Size) (k : Nat) {f : Long → Ccr → M (Long × Ccr)} (hf : ∀ d c, (f d c).Keeps P) :
    (modifyEA ea sz k f).Keeps P :=
  keeps_bind (keeps_locate _ _ _) fun _ => keeps_bind (keeps_readLoc _ _) fun _ => keeps_bind keeps_getCcr fun _ =>
    keeps_bind (hf _ _) fun _ => keeps_bind (keeps_writeLoc hP _ _ _) fun _ => keeps_bind (keeps_commit hP _) fun _ =>
      keeps_setCcr hP _

theorem keeps_modifyEAFlagsFirst (ea : EA) (sz : Size) (k : Nat) (f : Long → Ccr → Long × Ccr) :
    (modifyEAFlagsFirst ea sz k f).Keeps P :=
  keeps_bind (keeps_locate _ _ _) fun _ => keeps_bind (keeps_readLoc _ _) fun _ => keeps_bind keeps_getCcr fun _ =>
    keeps_bind (keeps_setCcr hP _) fun _ => keeps_bind (keeps_writeLoc hP _ _ _) fun _ => keeps_commit hP _

theorem keeps_setLogicFlags (sz : Size) (v : Long) : (setLogicFlags sz v).Keeps P :=
  keeps_bind keeps_getCcr fun _ => keeps_setCcr hP _

theorem keeps_drawBcd : drawBcd.Keeps P :=
  keeps_bind (keeps_drawSized hP _) fun _ => keeps_bind (keeps_drawBit hP) fun _ => keeps_pure _

theorem keeps_bcdAdd (s d : Long) (f : Ccr) : (bcdAdd s d f).Keeps P := by
  have rest : ∀ r : Long × Bool, (do
      let n ← drawBit
      let v ← drawBit
      return (r.1, bcdFlags r.1 r.2 n v f) : M (Long × Ccr)).Keeps P := fun r =>
    keeps_bind (keeps_drawBit hP) fun _ => keeps_bind (keeps_drawBit hP) fun _ => keeps_pure _
  exact keeps_ite (rest _) (keeps_bind (keeps_drawBcd hP) rest)

theorem keeps_bcdSub (s d : Long) (f : Ccr) : (bcdSub s d f).Keeps P := by
  have rest : ∀ r : Long × Bool, (do
      let n ← drawBit
      let v ← drawBit
      return (r.1, bcdFlags r.1 r.2 n v f) : M (Long × Ccr)).Keeps P := fun r =>
    keeps_bind (keeps_drawBit hP) fun _ => keeps_bind (keeps_drawBit hP) fun _ => keeps_pure _
  exact keeps_ite (rest _) (keeps_bind (keeps_drawBcd hP) rest)

theorem keeps_storeUp (sz : Size) (ks : List (BitVec 4)) (a : Long) : (storeUp sz ks a).Keeps P := by
  induction ks generalizing a with
  | nil => exact keeps_pure _
  | cons k ks ih => exact keeps_bind (keeps_getR _) fun _ => keeps_bind (keeps_memWrite hP _ _ _) fun _ => ih _

theorem keeps_storeDown (sz : Size) (n : BitVec 3) (i : Long) (ks : List (BitVec 4)) (a : Long) :
    (storeDown sz n i ks a).Keeps P := by
  induction ks generalizing a with
  | nil => exact keeps_pure _
  | cons k ks ih => exact keeps_bind (keeps_getR _) fun _ => keeps_bind (keeps_memWrite hP _ _ _) fun _ => ih _

theorem keeps_loadUp (sz : Size) (ks : List (BitVec 4)) (a : Long) : (loadUp sz ks a).Keeps P := by
  induction ks generalizing a with
  | nil => exact keeps_pure _
  | cons k ks ih => exact keeps_bind (keeps_memRead _ _) fun _ => keeps_bind (keeps_setR hP _ _) fun _ => ih _

theorem keeps_loadPostinc (sz : Size) (n : BitVec 3) (ks : List (BitVec 4)) (a : Long) (own : Option Long) :
    (loadPostinc sz n ks a own).Keeps P := by
  induction ks generalizing a own with
  | nil => exact keeps_pure _
  | cons k ks ih =>
    exact keeps_bind (keeps_memRead _ _) fun _ =>
      keeps_ite (ih _ _) (keeps_bind (keeps_setR hP _ _) fun _ => ih _ _)

theorem keeps_storeAlternate (l : List Byte) (a : Long) : (storeAlternate l a).Keeps P := by
  induction l generalizing a with
  | nil => exact keeps_pure _
  | cons b l ih => exact keeps_bind (keeps_memWrite hP _ _ _) fun _ => ih _

omit hP in
theorem keeps_loadAlternate (n : Nat) (a acc : Long) : (loadAlternate n a acc).Keeps P := by
  induction n generalizing a acc with
  | zero => exact keeps_pure _
  | succ n ih => exact keeps_bind (keeps_memRead _ _) fun _ => ih _ _

omit hP in
theorem keeps_movepAddr (y : BitVec 3) (d : Word) : (movepAddr y d).Keeps P :=
  keeps_bind (keeps_touchExt _ _) fun _ => keeps_bind (keeps_getA _) fun _ => keeps_pure _

omit hP in
theorem keeps_boundsTest (sz : Size) (xr : BitVec 4) (a : Long) : (boundsTest sz xr a).Keeps P :=
  keeps_bind (keeps_memRead _ _) fun _ => keeps_bind (keeps_memRead _ _) fun _ => keeps_bind (keeps_getR _) fun _ =>
    keeps_ite (keeps_pure _) (keeps_refuse _)

theorem keeps_boundsFlags (sz : Size) (xr : BitVec 4) (a : Long) : (boundsFlags sz xr a).Keeps P :=
  keeps_bind (keeps_boundsTest _ _ _) fun _ => keeps_bind (keeps_drawBit hP) fun _ =>
    keeps_bind (keeps_drawBit hP) fun _ => keeps_bind keeps_getCcr fun _ => keeps_bind (keeps_setCcr hP _) fun _ =>
      keeps_pure _

theorem keeps_divFailFlags (v : Bool) : (divFailFlags v).Keeps P :=
  keeps_bind keeps_getCcr fun _ => keeps_bind (keeps_drawBit hP) fun _ => keeps_bind (keeps_drawBit hP) fun _ =>
    keeps_setCcr hP _

theorem keeps_divide (signed : Bool) (n : Nat) (dd dv : Int) {store : Int → Int → M Unit}
    (hs : ∀ q r, (store q r).Keeps P) : (divide signed n dd dv store).Keeps P :=
  keeps_ite (keeps_bind (keeps_drawBit hP) fun _ => keeps_bind (keeps_divFailFlags hP _) fun _ => keeps_raise _)
    (keeps_ite (keeps_bind (hs _ _) fun _ => keeps_bind keeps_getCcr fun _ =>
      keeps_setCcr hP _) (keeps_divFailFlags hP _))

theorem keeps_bitModify (g : Long → Nat → Long) (num : Long) (ea : EA) (k : Nat) : (bitModify g num ea k).Keeps P :=
  keeps_modifyEAFlagsFirst hP _ _ _ _

theorem keeps_bitTest (num : Long) (ea : EA) (k : Nat) : (bitTest num ea k).Keeps P :=
  keeps_bind (keeps_readEA hP _ _ _) fun _ => keeps_bind keeps_getCcr fun _ => keeps_setCcr hP _

theorem keeps_writeWordFlushing (dst : EA) (v : Word) : (writeWordFlushing dst v).Keeps P :=
  keeps_bind (keeps_locate _ _ _) fun _ => keeps_bind (keeps_flush hP) fun _ =>
    keeps_bind (keeps_writeLoc hP _ _ _) fun _ =>
    keeps_commit hP _

theorem keeps_movesValue (xr : BitVec 4) (ea : EA) (p : Place) : (movesValue xr ea p).Keeps P := by
  refine keeps_bind (keeps_getR _) fun _ => keeps_ite (keeps_bind (keeps_drawBit hP) fun _ => ?_) (keeps_pure _)
  split <;> exact keeps_pure _

/-- Taking an exception (R460). -/
theorem keeps_enterException (k : Byte) (spc : Long) (ipc : Option Long) (level : Option (BitVec 3)) :
    (enterException k spc ipc level).Keeps P := by
  refine keeps_bind (keeps_flush hP) fun _ => keeps_bind (keeps_read _) fun _ =>
    keeps_bind (keeps_update fun s => hP.enter s level) fun _ => ?_
  have rest : (do
      push .w ((formatWord ipc.isSome k).setWidth 32)
      push .l spc
      push .w (‹Word›.setWidth 32)
      setPc (← readVector k) : M Unit).Keeps P :=
    keeps_bind (keeps_push hP _ _) fun _ => keeps_bind (keeps_push hP _ _) fun _ =>
      keeps_bind (keeps_push hP _ _) fun _ =>
      keeps_bind (keeps_readVector _) fun _ => keeps_setPc hP _
  cases ipc with
  | none => exact rest
  | some a => exact keeps_bind (keeps_push hP _ _) fun _ => rest

theorem keeps_takeEntry {x : M Unit} (hx : x.Keeps P) {s t : State} (hs : P s) (h : takeEntry x s = .next t) :
    P t := by
  have := hx s hs
  unfold takeEntry at h
  cases e : x s with
  | ok a u => rw [e] at this h; cases h; exact this
  | error e' u =>
    rw [e] at this h
    cases e' with
    | exc => cases h; exact hP.mark _ _ this
    | refuse => cases h

theorem keeps_memFault (kind : MemFault) (addr pc : Long) {s t : State} (hs : P s)
    (h : memFault kind addr pc s = .next t) : P t := by
  unfold memFault at h
  split at h
  · cases h; exact hP.mark _ _ hs
  · exact keeps_takeEntry hP (keeps_enterException hP _ _ _ _) hs h

theorem keeps_raiseExc (words : Nat) {s0 s t : State} (e : Exc) (h0 : P s0) (hs : P s)
    (h : raiseExc words s0 s e = .next t) : P t := by
  cases e <;> first
    | exact keeps_takeEntry hP (keeps_enterException hP _ _ _ _) h0 h
    | exact keeps_takeEntry hP (keeps_enterException hP _ _ _ _) hs h
    | exact keeps_memFault hP _ _ _ hs h

/-- One instruction: its body, then completion with trace and scheduler, or the exception. -/
theorem keeps_runInstr {Q : State → Prop} (hQ : ∀ s, P s → Q s) (hR : ∀ s, P s → Q (reschedule s)) (words : Nat)
    {body : M Flow} {s t : State} (hs : P s) (h : runInstr words body s = .next t) (hb : body.Keeps P) : Q t := by
  have hb' := hb s hs
  unfold runInstr at h
  have settle : ∀ (f : Flow) u, P u → Q (f.settle u) := by
    intro f u hu; cases f <;> first | exact hR _ hu | exact hQ _ hu
  cases e : body s with
  | error e' u =>
    rw [e] at hb' h
    cases e' with
    | exc x => exact hQ _ (keeps_raiseExc hP _ x hs hb' h)
    | refuse => cases h
  | ok f u =>
    rw [e] at hb' h
    have h1 := hP.pc u (f.target (s.ctx.pc + BitVec.ofNat 32 (2 * words))) hb'
    simp only [complete] at h
    split at h
    · cases h; exact settle _ _ h1
    · split at h
      · next e2 => cases h; exact settle _ _ (keeps_takeEntry hP (keeps_enterException hP _ _ _ _) h1 e2)
      · next e2 => rw [h] at e2; exact absurd rfl (e2 t)
    · cases h
end

end Sys2Proof.Machine
end

