-- ==== Sys2Proof/Tests/Slice0.lean ====
section
/-! SUPPORT. Sys2Proof/Tests/Slice0.lean: the model's own tests. Ill-formed terms that WellFormed refuses; words written
out from the encodings of spec/30_encoding.md and the `encoding` column of spec/opcode_table.json; the vectors of
spec/95_test_vectors.md run through `step`; and a witness for the hypotheses of every obligation that has some. -/

namespace Sys2Proof.Tests

open Sys2Proof Sys2Proof.Machine

-- one theorem at a time: each check is a thread with a stack of its own, and the sandbox has room for few
set_option Elab.async false

/-! ## Ill-formed terms (R123, R125, R127, R130, R151, R351) -/

/-- The terms are refused as instructions. -/
def allRefused (l : List Instr) : Bool := l.all fun i => !i.ok

/-- One mode each set leaves out (R130): no address register in DATA, DALT, MALT; no data register in MALT and CTRL;
no PC-relative mode in DALT, ALT and the MOVEM lists; no immediate in DALT and DATA without immediate. -/
theorem test_ill_formed_modes : allRefused
  [.moveB (.an 0#3) (.dn 0#3), .moveB (.dn 0#3) (.an 0#3), .moveL (.dn 0#3) (.pcDisp 0#16), .tstB (.an 1#3),
   .addToEaW 0#3 (.dn 1#3), .addToEaW 0#3 (.imm 1#32), .lea 0#3 (.dn 0#3), .lea 0#3 (.postinc 0#3), .jmp (.predec 0#3),
   .jsr (.imm 0#32), .clrL (.pcIdx (.brief ⟨0#4, false, 0#2⟩ 0#8)), .addqW 1#3 (.pcDisp 2#16), .addqB 1#3 (.an 0#3),
   .cmpiB 0#8 (.imm 0#32), .chkW 0#3 (.imm 0#32), .divsW 0#3 (.imm 1#32), .orToDnB 0#3 (.pcDisp 0#16),
   .movemStoreW 1#16 (.postinc 0#3), .movemLoadW 1#16 (.predec 0#3), .movemLoadL 1#16 (.pcDisp 0#16),
   .movesB 0#4 true 0#11 (.dn 0#3), .cmp2W 0#4 0#11 (.postinc 0#3), .btst 0#8 (.imm 0#32)] = true := by decide

/-- An immediate above its size (R125). -/
theorem test_ill_formed_immediate : allRefused
  [.moveB (.imm 0x100#32) (.dn 0#3), .moveW (.imm 0x10000#32) (.dn 0#3), .btstDn 0#3 (.imm 0x100#32)] = true := by decide

/-- Extensions no word holds: a full word with everything suppressed but no such encoding, a word that is no full word,
a full word that has a meaning (R118, R123). -/
theorem test_ill_formed_extension : allRefused
  [.jmp (.idx 0#3 (.full ⟨0#4, false, 0#2⟩ true true .null)), .jmp (.idx 0#3 (.illegal 0x0000#16)),
   .jmp (.idx 0#3 (.illegal 0x0110#16)), .jmp (.pcIdx (.unstated 0x0110#16)),
   .jmp (.pcIdx (.unstated 0x0100#16))] = true := by decide

/-- Byte displacements that select the longer forms (R351). -/
theorem test_ill_formed_displacement : allRefused [.bra (.byte 0#8), .bsr (.byte 0xFF#8), .beq (.byte 0#8)] = true := by
  decide

/-! ## Decoding words written out from the spec's encodings -/

/-- Each operation word with its further words decodes to its instruction, is what the instruction encodes to, and the
instruction is well formed. -/
def decodesAll (l : List (Word × List Word × Instr)) : Bool :=
  l.all fun r => decode r.1 r.2.1 = .instr r.2.2 && encode r.2.2 = r.1 :: r.2.1 && r.2.2.ok

theorem test_decode_logic_1 : decodesAll
   [
    -- ORI.B: 0000000000eeeeee
    (0x0003#16, [0x0092#16], .oriB 0x92#8 (.dn 3#3)),
    -- ORI.W: 0000000001eeeeee
    (0x0055#16, [0x9234#16], .oriW 0x9234#16 (.ind 5#3)),
    -- ORI.L: 0000000010eeeeee
    (0x009E#16, [0x9234#16, 0x5678#16], .oriL 0x92345678#32 (.postinc 6#3)),
    -- ANDI.B: 0000001000eeeeee
    (0x0227#16, [0x0092#16], .andiB 0x92#8 (.predec 7#3)),
    -- ANDI.W: 0000001001eeeeee
    (0x026A#16, [0x9234#16, 0xFFFE#16], .andiW 0x9234#16 (.disp 2#3 0xFFFE#16)),
    -- ANDI.L: 0000001010eeeeee
    (0x02B1#16, [0x9234#16, 0x5678#16, 0x9CF0#16], .andiL 0x92345678#32 (.idx 1#3 (.brief ⟨9#4, true, 2#2⟩ 0xF0#8))),
    -- EORI.B: 0000101000eeeeee
    (0x0A2A#16, [0x0092#16, 0xFFFE#16], .eoriB 0x92#8 (.disp 2#3 0xFFFE#16)),
    -- EORI.W: 0000101001eeeeee
    (0x0A71#16, [0x9234#16, 0x9CF0#16], .eoriW 0x9234#16 (.idx 1#3 (.brief ⟨9#4, true, 2#2⟩ 0xF0#8))),
    -- EORI.L: 0000101010eeeeee
    (0x0AB8#16, [0x9234#16, 0x5678#16, 0x8004#16], .eoriL 0x92345678#32 (.absW 0x8004#16)),
    -- NOT.B: 0100011000eeeeee
    (0x4615#16, [], .notB (.ind 5#3)),
    -- NOT.W: 0100011001eeeeee
    (0x465E#16, [], .notW (.postinc 6#3)),
    -- NOT.L: 0100011010eeeeee
    (0x46A7#16, [], .notL (.predec 7#3)),
    -- TST.B: 0100101000eeeeee
    (0x4A3A#16, [0x0010#16], .tstB (.pcDisp 0x0010#16)),
    -- TST.W: 0100101001eeeeee
    (0x4A55#16, [], .tstW (.ind 5#3)),
    -- TST.L: 0100101010eeeeee
    (0x4A9E#16, [], .tstL (.postinc 6#3)),
    -- OR.B ea Dn: 1000rrr000eeeeee
    (0x8A15#16, [], .orToDnB 5#3 (.ind 5#3))] = true := by decide

theorem test_decode_logic_2 : decodesAll
   [
    -- OR.B_Dn ea: 1000rrr100eeeeee
    (0x8B38#16, [0x8004#16], .orToEaB 5#3 (.absW 0x8004#16)),
    -- OR.W ea Dn: 1000rrr001eeeeee
    (0x8A67#16, [], .orToDnW 5#3 (.predec 7#3)),
    -- OR.W_Dn ea: 1000rrr101eeeeee
    (0x8B55#16, [], .orToEaW 5#3 (.ind 5#3)),
    -- OR.L ea Dn: 1000rrr010eeeeee
    (0x8AB1#16, [0x9CF0#16], .orToDnL 5#3 (.idx 1#3 (.brief ⟨9#4, true, 2#2⟩ 0xF0#8))),
    -- OR.L_Dn ea: 1000rrr110eeeeee
    (0x8BA7#16, [], .orToEaL 5#3 (.predec 7#3)),
    -- EOR.B: 1011rrr100eeeeee
    (0xBB38#16, [0x8004#16], .eorB 5#3 (.absW 0x8004#16)),
    -- EOR.W: 1011rrr101eeeeee
    (0xBB79#16, [0x0001#16, 0x2346#16], .eorW 5#3 (.absL 0x00012346#32)),
    -- EOR.L: 1011rrr110eeeeee
    (0xBB83#16, [], .eorL 5#3 (.dn 3#3)),
    -- AND.B ea Dn: 1100rrr000eeeeee
    (0xCA3A#16, [0x0010#16], .andToDnB 5#3 (.pcDisp 0x0010#16)),
    -- AND.B_Dn ea: 1100rrr100eeeeee
    (0xCB1E#16, [], .andToEaB 5#3 (.postinc 6#3)),
    -- AND.W ea Dn: 1100rrr001eeeeee
    (0xCA78#16, [0x8004#16], .andToDnW 5#3 (.absW 0x8004#16)),
    -- AND.W_Dn ea: 1100rrr101eeeeee
    (0xCB6A#16, [0xFFFE#16], .andToEaW 5#3 (.disp 2#3 0xFFFE#16)),
    -- AND.L ea Dn: 1100rrr010eeeeee
    (0xCABC#16, [0x8000#16, 0x0001#16], .andToDnL 5#3 (.imm 0x80000001#32)),
    -- AND.L_Dn ea: 1100rrr110eeeeee
    (0xCBB8#16, [0x8004#16], .andToEaL 5#3 (.absW 0x8004#16))] = true := by decide

theorem test_decode_arithmetic_1 : decodesAll
   [
    -- SUBI.B: 0000010000eeeeee
    (0x0438#16, [0x0092#16, 0x8004#16], .subiB 0x92#8 (.absW 0x8004#16)),
    -- SUBI.W: 0000010001eeeeee
    (0x0479#16, [0x9234#16, 0x0001#16, 0x2346#16], .subiW 0x9234#16 (.absL 0x00012346#32)),
    -- SUBI.L: 0000010010eeeeee
    (0x0483#16, [0x9234#16, 0x5678#16], .subiL 0x92345678#32 (.dn 3#3)),
    -- ADDI.B: 0000011000eeeeee
    (0x0615#16, [0x0092#16], .addiB 0x92#8 (.ind 5#3)),
    -- ADDI.W: 0000011001eeeeee
    (0x065E#16, [0x9234#16], .addiW 0x9234#16 (.postinc 6#3)),
    -- ADDI.L: 0000011010eeeeee
    (0x06A7#16, [0x9234#16, 0x5678#16], .addiL 0x92345678#32 (.predec 7#3)),
    -- CMPI.B: 0000110000eeeeee
    (0x0C31#16, [0x0092#16, 0x9CF0#16], .cmpiB 0x92#8 (.idx 1#3 (.brief ⟨9#4, true, 2#2⟩ 0xF0#8))),
    -- CMPI.W: 0000110001eeeeee
    (0x0C7A#16, [0x9234#16, 0x0010#16], .cmpiW 0x9234#16 (.pcDisp 0x0010#16)),
    -- CMPI.L: 0000110010eeeeee
    (0x0CBB#16, [0x9234#16, 0x5678#16, 0x3320#16, 0x7FFF#16], .cmpiL 0x92345678#32 (.pcIdx (.full ⟨3#4, false, 1#2⟩ false false (.word 0x7FFF#16)))),
    -- CMP2.B: 0000000011eeeeee
    (0x00F8#16, [0x5000#16, 0x8004#16], .cmp2B 5#4 0#11 (.absW 0x8004#16)),
    -- CMP2.W: 0000001011eeeeee
    (0x02EA#16, [0x5000#16, 0xFFFE#16], .cmp2W 5#4 0#11 (.disp 2#3 0xFFFE#16)),
    -- CMP2.L: 0000010011eeeeee
    (0x04FB#16, [0x5000#16, 0x3320#16, 0x7FFF#16], .cmp2L 5#4 0#11 (.pcIdx (.full ⟨3#4, false, 1#2⟩ false false (.word 0x7FFF#16)))),
    -- NEGX.B: 0100000000eeeeee
    (0x4003#16, [], .negxB (.dn 3#3)),
    -- NEGX.W: 0100000001eeeeee
    (0x4055#16, [], .negxW (.ind 5#3)),
    -- NEGX.L: 0100000010eeeeee
    (0x409E#16, [], .negxL (.postinc 6#3)),
    -- CLR.B: 0100001000eeeeee
    (0x4227#16, [], .clrB (.predec 7#3))] = true := by decide

theorem test_decode_arithmetic_2 : decodesAll
   [
    -- CLR.W: 0100001001eeeeee
    (0x426A#16, [0xFFFE#16], .clrW (.disp 2#3 0xFFFE#16)),
    -- CLR.L: 0100001010eeeeee
    (0x42B1#16, [0x9CF0#16], .clrL (.idx 1#3 (.brief ⟨9#4, true, 2#2⟩ 0xF0#8))),
    -- NEG.B: 0100010000eeeeee
    (0x4438#16, [0x8004#16], .negB (.absW 0x8004#16)),
    -- NEG.W: 0100010001eeeeee
    (0x4479#16, [0x0001#16, 0x2346#16], .negW (.absL 0x00012346#32)),
    -- NEG.L: 0100010010eeeeee
    (0x4483#16, [], .negL (.dn 3#3)),
    -- EXT.W: 0100100010000rrr
    (0x4885#16, [], .extW 5#3),
    -- EXT.L: 0100100011000rrr
    (0x48C5#16, [], .extL 5#3),
    -- EXTB.L: 0100100111000rrr
    (0x49C5#16, [], .extbL 5#3),
    -- ADDQ.B: 0101ddd000eeeeee
    (0x5C1E#16, [], .addqB 6#3 (.postinc 6#3)),
    -- SUBQ.B: 0101ddd100eeeeee
    (0x5D27#16, [], .subqB 6#3 (.predec 7#3)),
    -- ADDQ.W: 0101ddd001eeeeee
    (0x5C67#16, [], .addqW 6#3 (.predec 7#3)),
    -- SUBQ.W: 0101ddd101eeeeee
    (0x5D6A#16, [0xFFFE#16], .subqW 6#3 (.disp 2#3 0xFFFE#16)),
    -- ADDQ.L: 0101ddd010eeeeee
    (0x5CB1#16, [0x9CF0#16], .addqL 6#3 (.idx 1#3 (.brief ⟨9#4, true, 2#2⟩ 0xF0#8))),
    -- SUBQ.L: 0101ddd110eeeeee
    (0x5DB8#16, [0x8004#16], .subqL 6#3 (.absW 0x8004#16)),
    -- SUB.B ea Dn: 1001rrr000eeeeee
    (0x9A15#16, [], .subToDnB 5#3 (.ind 5#3)),
    -- SUB.B_Dn ea: 1001rrr100eeeeee
    (0x9B39#16, [0x0001#16, 0x2346#16], .subToEaB 5#3 (.absL 0x00012346#32))] = true := by decide

theorem test_decode_arithmetic_3 : decodesAll
   [
    -- SUB.W ea Dn: 1001rrr001eeeeee
    (0x9A7A#16, [0x0010#16], .subToDnW 5#3 (.pcDisp 0x0010#16)),
    -- SUB.W_Dn ea: 1001rrr101eeeeee
    (0x9B5E#16, [], .subToEaW 5#3 (.postinc 6#3)),
    -- SUB.L ea Dn: 1001rrr010eeeeee
    (0x9AB8#16, [0x8004#16], .subToDnL 5#3 (.absW 0x8004#16)),
    -- SUB.L_Dn ea: 1001rrr110eeeeee
    (0x9BAA#16, [0xFFFE#16], .subToEaL 5#3 (.disp 2#3 0xFFFE#16)),
    -- SUBA.W: 1001rrr011eeeeee
    (0x9AFC#16, [0x8001#16], .subaW 5#3 (.imm 0x8001#32)),
    -- SUBA.L: 1001rrr111eeeeee
    (0x9BC3#16, [], .subaL 5#3 (.dn 3#3)),
    -- SUBX.B: 1001xxx10000myyy
    (0x9D0B#16, [], .subxB 6#3 true 3#3),
    -- SUBX.W: 1001xxx10100myyy
    (0x9D4B#16, [], .subxW 6#3 true 3#3),
    -- SUBX.L: 1001xxx11000myyy
    (0x9D8B#16, [], .subxL 6#3 true 3#3),
    -- CMP.B ea Dn: 1011rrr000eeeeee
    (0xBA39#16, [0x0001#16, 0x2346#16], .cmpB 5#3 (.absL 0x00012346#32)),
    -- CMP.W ea Dn: 1011rrr001eeeeee
    (0xBA55#16, [], .cmpW 5#3 (.ind 5#3)),
    -- CMP.L ea Dn: 1011rrr010eeeeee
    (0xBA9E#16, [], .cmpL 5#3 (.postinc 6#3)),
    -- CMPA.W: 1011rrr011eeeeee
    (0xBAE7#16, [], .cmpaW 5#3 (.predec 7#3)),
    -- CMPA.L: 1011rrr111eeeeee
    (0xBBEA#16, [0xFFFE#16], .cmpaL 5#3 (.disp 2#3 0xFFFE#16)),
    -- CMPM.B: 1011xxx100001yyy
    (0xBD0B#16, [], .cmpmB 6#3 3#3),
    -- CMPM.W: 1011xxx101001yyy
    (0xBD4B#16, [], .cmpmW 6#3 3#3)] = true := by decide

theorem test_decode_arithmetic_4 : decodesAll
   [
    -- CMPM.L: 1011xxx110001yyy
    (0xBD8B#16, [], .cmpmL 6#3 3#3),
    -- ADD.B ea Dn: 1101rrr000eeeeee
    (0xDA27#16, [], .addToDnB 5#3 (.predec 7#3)),
    -- ADD.B_Dn ea: 1101rrr100eeeeee
    (0xDB27#16, [], .addToEaB 5#3 (.predec 7#3)),
    -- ADD.W ea Dn: 1101rrr001eeeeee
    (0xDA7A#16, [0x0010#16], .addToDnW 5#3 (.pcDisp 0x0010#16)),
    -- ADD.W_Dn ea: 1101rrr101eeeeee
    (0xDB71#16, [0x9CF0#16], .addToEaW 5#3 (.idx 1#3 (.brief ⟨9#4, true, 2#2⟩ 0xF0#8))),
    -- ADD.L ea Dn: 1101rrr010eeeeee
    (0xDAB8#16, [0x8004#16], .addToDnL 5#3 (.absW 0x8004#16)),
    -- ADD.L_Dn ea: 1101rrr110eeeeee
    (0xDBB9#16, [0x0001#16, 0x2346#16], .addToEaL 5#3 (.absL 0x00012346#32)),
    -- ADDA.W: 1101rrr011eeeeee
    (0xDAFC#16, [0x8001#16], .addaW 5#3 (.imm 0x8001#32)),
    -- ADDA.L: 1101rrr111eeeeee
    (0xDBC3#16, [], .addaL 5#3 (.dn 3#3)),
    -- ADDX.B: 1101xxx10000myyy
    (0xDD0B#16, [], .addxB 6#3 true 3#3),
    -- ADDX.W: 1101xxx10100myyy
    (0xDD4B#16, [], .addxW 6#3 true 3#3),
    -- ADDX.L: 1101xxx11000myyy
    (0xDD8B#16, [], .addxL 6#3 true 3#3)] = true := by decide

theorem test_decode_system_control_1 : decodesAll
   [
    -- ORI_to_CCR: 0000000000111100
    (0x003C#16, [0x0092#16], .oriToCcr 0x92#8),
    -- ORI_to_SR: 0000000001111100
    (0x007C#16, [0x9234#16], .oriToSr 0x9234#16),
    -- ANDI_to_CCR: 0000001000111100
    (0x023C#16, [0x0092#16], .andiToCcr 0x92#8),
    -- ANDI_to_SR: 0000001001111100
    (0x027C#16, [0x9234#16], .andiToSr 0x9234#16),
    -- EORI_to_CCR: 0000101000111100
    (0x0A3C#16, [0x0092#16], .eoriToCcr 0x92#8),
    -- EORI_to_SR: 0000101001111100
    (0x0A7C#16, [0x9234#16], .eoriToSr 0x9234#16),
    -- MOVES.B: 0000111000eeeeee
    (0x0E31#16, [0xD800#16, 0x9CF0#16], .movesB 13#4 true 0#11 (.idx 1#3 (.brief ⟨9#4, true, 2#2⟩ 0xF0#8))),
    -- MOVES.W: 0000111001eeeeee
    (0x0E55#16, [0xD800#16], .movesW 13#4 true 0#11 (.ind 5#3)),
    -- MOVES.L: 0000111010eeeeee
    (0x0EAA#16, [0xD800#16, 0xFFFE#16], .movesL 13#4 true 0#11 (.disp 2#3 0xFFFE#16)),
    -- MOVE_from_SR: 0100000011eeeeee
    (0x40EA#16, [0xFFFE#16], .moveFromSr (.disp 2#3 0xFFFE#16)),
    -- MOVE_from_CCR: 0100001011eeeeee
    (0x42F1#16, [0x9CF0#16], .moveFromCcr (.idx 1#3 (.brief ⟨9#4, true, 2#2⟩ 0xF0#8))),
    -- MOVE_to_CCR: 0100010011eeeeee
    (0x44FC#16, [0x8001#16], .moveToCcr (.imm 0x8001#32)),
    -- MOVE_An_USP: 0100111001100rrr
    (0x4E65#16, [], .moveToUsp 5#3),
    -- MOVE_USP_An: 0100111001101rrr
    (0x4E6D#16, [], .moveFromUsp 5#3),
    -- RESET: 0100111001110000
    (0x4E70#16, [], .reset),
    -- STOP: 0100111001110010
    (0x4E72#16, [0x2700#16], .stop 0x2700#16)] = true := by decide

theorem test_decode_system_control_2 : decodesAll
   [
    -- RTE: 0100111001110011
    (0x4E73#16, [], .rte),
    -- SLEEP: 0100111001111000
    (0x4E78#16, [], .sleep),
    -- MOVEC_Rc_Rn: 0100111001111010
    (0x4E7A#16, [0xA801#16], .movecFromCr 10#4 0x801#12),
    -- MOVEC_Rn_Rc: 0100111001111011
    (0x4E7B#16, [0xA801#16], .movecToCr 10#4 0x801#12),
    -- LPSTOP: 1111100000000000
    (0xF800#16, [0x01C0#16, 0x2700#16], .lpstop 0x2700#16)] = true := by decide

theorem test_decode_trapping : decodesAll
   [
    -- CHK2.B: 0000000011eeeeee
    (0x00F9#16, [0xA800#16, 0x0001#16, 0x2346#16], .chk2B 10#4 0#11 (.absL 0x00012346#32)),
    -- CHK2.W: 0000001011eeeeee
    (0x02F1#16, [0xA800#16, 0x9CF0#16], .chk2W 10#4 0#11 (.idx 1#3 (.brief ⟨9#4, true, 2#2⟩ 0xF0#8))),
    -- CHK2.L: 0000010011eeeeee
    (0x04F8#16, [0xA800#16, 0x8004#16], .chk2L 10#4 0#11 (.absW 0x8004#16)),
    -- BKPT: 0100100001001vvv
    (0x484E#16, [], .bkpt 6#3),
    -- BGND: 0100101011111010
    (0x4AFA#16, [], .bgnd),
    -- ILLEGAL: 0100101011111100
    (0x4AFC#16, [], .illegal),
    -- TRAPX: 010011100011vvvv
    (0x4E39#16, [], .trapx 9#4),
    -- TRAP: 010011100100vvvv
    (0x4E49#16, [], .trap 9#4),
    -- TRAPV: 0100111001110110
    (0x4E76#16, [], .trapv),
    -- CHK.W: 0100rrr110eeeeee
    (0x4B95#16, [], .chkW 5#3 (.ind 5#3)),
    -- CHK.L: 0100rrr100eeeeee
    (0x4B1E#16, [], .chkL 5#3 (.postinc 6#3)),
    -- TRAPcc.W: 0101cccc11111010
    (0x5BFA#16, [0x1234#16], .trapccW 11#4 0x1234#16),
    -- TRAPcc.L: 0101cccc11111011
    (0x5BFB#16, [0x1234#16, 0x5678#16], .trapccL 11#4 0x12345678#32),
    -- TRAPcc: 0101cccc11111100
    (0x5BFC#16, [], .trapcc 11#4)] = true := by decide

theorem test_decode_bit_ops : decodesAll
   [
    -- BTST: 0000100000eeeeee
    (0x083B#16, [0x0015#16, 0x3320#16, 0x7FFF#16], .btst 0x15#8 (.pcIdx (.full ⟨3#4, false, 1#2⟩ false false (.word 0x7FFF#16)))),
    -- BTST_Dn: 0000rrr100eeeeee
    (0x0B3A#16, [0x0010#16], .btstDn 5#3 (.pcDisp 0x0010#16)),
    -- BCHG: 0000100001eeeeee
    (0x0871#16, [0x0015#16, 0x9CF0#16], .bchg 0x15#8 (.idx 1#3 (.brief ⟨9#4, true, 2#2⟩ 0xF0#8))),
    -- BCHG_Dn: 0000rrr101eeeeee
    (0x0B78#16, [0x8004#16], .bchgDn 5#3 (.absW 0x8004#16)),
    -- BCLR: 0000100010eeeeee
    (0x08B9#16, [0x0015#16, 0x0001#16, 0x2346#16], .bclr 0x15#8 (.absL 0x00012346#32)),
    -- BCLR_Dn: 0000rrr110eeeeee
    (0x0B83#16, [], .bclrDn 5#3 (.dn 3#3)),
    -- BSET: 0000100011eeeeee
    (0x08D5#16, [0x0015#16], .bset 0x15#8 (.ind 5#3)),
    -- BSET_Dn: 0000rrr111eeeeee
    (0x0BDE#16, [], .bsetDn 5#3 (.postinc 6#3)),
    -- TAS: 0100101011eeeeee
    (0x4AC3#16, [], .tas (.dn 3#3))] = true := by decide

theorem test_decode_data_movement_1 : decodesAll
   [
    -- MOVEP.W d16_Ay Dx: 0000xxx100001yyy
    (0x0D0B#16, [0xFF00#16], .movepLoadW 6#3 3#3 0xFF00#16),
    -- MOVEP.L d16_Ay Dx: 0000xxx101001yyy
    (0x0D4B#16, [0xFF00#16], .movepLoadL 6#3 3#3 0xFF00#16),
    -- MOVEP.W_Dx d16_Ay: 0000xxx110001yyy
    (0x0D8B#16, [0xFF00#16], .movepStoreW 6#3 3#3 0xFF00#16),
    -- MOVEP.L_Dx d16_Ay: 0000xxx111001yyy
    (0x0DCB#16, [0xFF00#16], .movepStoreL 6#3 3#3 0xFF00#16),
    -- MOVE.B: 0001RRRMMMeeeeee
    (0x155E#16, [0xFFFE#16], .moveB (.postinc 6#3) (.disp 2#3 0xFFFE#16)),
    -- MOVE.W: 0011RRRMMMeeeeee
    (0x33C3#16, [0x0001#16, 0x2346#16], .moveW (.dn 3#3) (.absL 0x00012346#32)),
    -- MOVEA.W: 0011RRR001eeeeee
    (0x344C#16, [], .moveaW (.an 4#3) 2#3),
    -- MOVE.L: 0010RRRMMMeeeeee
    (0x2F15#16, [], .moveL (.ind 5#3) (.predec 7#3)),
    -- MOVEA.L: 0010RRR001eeeeee
    (0x245E#16, [], .moveaL (.postinc 6#3) 2#3),
    -- LINK.L: 0100100000001rrr
    (0x480D#16, [0xFFFF#16, 0xFFF8#16], .linkL 5#3 0xFFFFFFF8#32),
    -- PEA: 0100100001eeeeee
    (0x4855#16, [], .pea (.ind 5#3)),
    -- MOVEM.W_list ea: 0100100010eeeeee
    (0x48B1#16, [0x8003#16, 0x9CF0#16], .movemStoreW 0x8003#16 (.idx 1#3 (.brief ⟨9#4, true, 2#2⟩ 0xF0#8))),
    -- MOVEM.W ea list: 0100110010eeeeee
    (0x4CB8#16, [0x8003#16, 0x8004#16], .movemLoadW 0x8003#16 (.absW 0x8004#16)),
    -- MOVEM.L_list ea: 0100100011eeeeee
    (0x48F9#16, [0x8003#16, 0x0001#16, 0x2346#16], .movemStoreL 0x8003#16 (.absL 0x00012346#32)),
    -- MOVEM.L ea list: 0100110011eeeeee
    (0x4CD5#16, [0x8003#16], .movemLoadL 0x8003#16 (.ind 5#3)),
    -- LINK.W: 0100111001010rrr
    (0x4E55#16, [0xFFF8#16], .linkW 5#3 0xFFF8#16)] = true := by decide

theorem test_decode_data_movement_2 : decodesAll
   [
    -- UNLK: 0100111001011rrr
    (0x4E5D#16, [], .unlk 5#3),
    -- LEA: 0100rrr111eeeeee
    (0x4BFA#16, [0x0010#16], .lea 5#3 (.pcDisp 0x0010#16)),
    -- MOVEQ: 0111rrr0dddddddd
    (0x7AFE#16, [], .moveq 5#3 0xFE#8),
    -- EXG_Dx_Dy: 1100xxx101000yyy
    (0xCD43#16, [], .exgDD 6#3 3#3),
    -- EXG_Ax_Ay: 1100xxx101001yyy
    (0xCD4B#16, [], .exgAA 6#3 3#3),
    -- EXG_Dx_Ay: 1100xxx110001yyy
    (0xCD8B#16, [], .exgDA 6#3 3#3)] = true := by decide

theorem test_decode_refused : decodesAll
   [
    -- REFUSED_Q7 MOVE_to_SR_slot: 0100011011eeeeee
    (0x46F5#16, [], .refusedMoveToSr 6#3 5#3),
    -- REFUSED_Q5 MOVEM.W PC-relative list: 010011001011101e
    (0x4CBB#16, [], .refusedMovemPcW 1#1),
    -- REFUSED_Q5 MOVEM.L PC-relative list: 010011001111101e
    (0x4CFB#16, [], .refusedMovemPcL 1#1),
    -- REFUSED_Q3 CHK.W imm_Dn: 0100rrr110111100
    (0x4BBC#16, [], .refusedChkImmW 5#3),
    -- REFUSED_Q3 CHK.L imm_Dn: 0100rrr100111100
    (0x4B3C#16, [], .refusedChkImmL 5#3),
    -- REFUSED_Q1 OR.B PC-relative Dn: 1000rrr00011101e
    (0x8A3B#16, [], .refusedOrPcB 5#3 1#1),
    -- REFUSED_Q2 OR.B imm_Dn: 1000rrr000111100
    (0x8A3C#16, [], .refusedOrImmB 5#3),
    -- REFUSED_Q1 OR.W PC-relative Dn: 1000rrr00111101e
    (0x8A7B#16, [], .refusedOrPcW 5#3 1#1),
    -- REFUSED_Q2 OR.W imm_Dn: 1000rrr001111100
    (0x8A7C#16, [], .refusedOrImmW 5#3),
    -- REFUSED_Q1 OR.L PC-relative Dn: 1000rrr01011101e
    (0x8ABB#16, [], .refusedOrPcL 5#3 1#1),
    -- REFUSED_Q2 OR.L imm_Dn: 1000rrr010111100
    (0x8ABC#16, [], .refusedOrImmL 5#3),
    -- REFUSED_Q6 OR.W_Dn_Dm: 1000rrr101000yyy
    (0x8B43#16, [], .refusedOrRegW 5#3 3#3),
    -- REFUSED_Q6 OR.L_Dn_Dm: 1000rrr110000yyy
    (0x8B83#16, [], .refusedOrRegL 5#3 3#3),
    -- REFUSED_Q4 DIVS.W imm_Dn: 1000rrr111111100
    (0x8BFC#16, [], .refusedDivsImm 5#3)] = true := by decide

theorem test_decode_bcd : decodesAll
   [
    -- NBCD: 0100100000eeeeee
    (0x4839#16, [0x0001#16, 0x2346#16], .nbcd (.absL 0x00012346#32)),
    -- SBCD: 1000xxx10000myyy
    (0x8D0B#16, [], .sbcd 6#3 true 3#3),
    -- ABCD: 1100xxx10000myyy
    (0xCD0B#16, [], .abcd 6#3 true 3#3)] = true := by decide

theorem test_decode_shift_1 : decodesAll
   [
    -- SWAP: 0100100001000rrr
    (0x4845#16, [], .swap 5#3),
    -- ASL.B register: 1110kkk100i00rrr
    (0xE925#16, [], .aslB 4#3 true 5#3),
    -- ASL.W register: 1110kkk101i00rrr
    (0xE965#16, [], .aslW 4#3 true 5#3),
    -- ASL.L register: 1110kkk110i00rrr
    (0xE9A5#16, [], .aslL 4#3 true 5#3),
    -- ASL.W ea _memory: 1110000111eeeeee
    (0xE1E7#16, [], .aslMem (.predec 7#3)),
    -- ASR.B register: 1110kkk000i00rrr
    (0xE825#16, [], .asrB 4#3 true 5#3),
    -- ASR.W register: 1110kkk001i00rrr
    (0xE865#16, [], .asrW 4#3 true 5#3),
    -- ASR.L register: 1110kkk010i00rrr
    (0xE8A5#16, [], .asrL 4#3 true 5#3),
    -- ASR.W ea _memory: 1110000011eeeeee
    (0xE0EA#16, [0xFFFE#16], .asrMem (.disp 2#3 0xFFFE#16)),
    -- LSL.B register: 1110kkk100i01rrr
    (0xE92D#16, [], .lslB 4#3 true 5#3),
    -- LSL.W register: 1110kkk101i01rrr
    (0xE96D#16, [], .lslW 4#3 true 5#3),
    -- LSL.L register: 1110kkk110i01rrr
    (0xE9AD#16, [], .lslL 4#3 true 5#3),
    -- LSL.W ea _memory: 1110001111eeeeee
    (0xE3F1#16, [0x9CF0#16], .lslMem (.idx 1#3 (.brief ⟨9#4, true, 2#2⟩ 0xF0#8))),
    -- LSR.B register: 1110kkk000i01rrr
    (0xE82D#16, [], .lsrB 4#3 true 5#3),
    -- LSR.W register: 1110kkk001i01rrr
    (0xE86D#16, [], .lsrW 4#3 true 5#3),
    -- LSR.L register: 1110kkk010i01rrr
    (0xE8AD#16, [], .lsrL 4#3 true 5#3)] = true := by decide

theorem test_decode_shift_2 : decodesAll
   [
    -- LSR.W ea _memory: 1110001011eeeeee
    (0xE2F8#16, [0x8004#16], .lsrMem (.absW 0x8004#16)),
    -- ROXL.B register: 1110kkk100i10rrr
    (0xE935#16, [], .roxlB 4#3 true 5#3),
    -- ROXL.W register: 1110kkk101i10rrr
    (0xE975#16, [], .roxlW 4#3 true 5#3),
    -- ROXL.L register: 1110kkk110i10rrr
    (0xE9B5#16, [], .roxlL 4#3 true 5#3),
    -- ROXL.W ea _memory: 1110010111eeeeee
    (0xE5F9#16, [0x0001#16, 0x2346#16], .roxlMem (.absL 0x00012346#32)),
    -- ROXR.B register: 1110kkk000i10rrr
    (0xE835#16, [], .roxrB 4#3 true 5#3),
    -- ROXR.W register: 1110kkk001i10rrr
    (0xE875#16, [], .roxrW 4#3 true 5#3),
    -- ROXR.L register: 1110kkk010i10rrr
    (0xE8B5#16, [], .roxrL 4#3 true 5#3),
    -- ROXR.W ea _memory: 1110010011eeeeee
    (0xE4D5#16, [], .roxrMem (.ind 5#3)),
    -- ROL.B register: 1110kkk100i11rrr
    (0xE93D#16, [], .rolB 4#3 true 5#3),
    -- ROL.W register: 1110kkk101i11rrr
    (0xE97D#16, [], .rolW 4#3 true 5#3),
    -- ROL.L register: 1110kkk110i11rrr
    (0xE9BD#16, [], .rolL 4#3 true 5#3),
    -- ROL.W ea _memory: 1110011111eeeeee
    (0xE7DE#16, [], .rolMem (.postinc 6#3)),
    -- ROR.B register: 1110kkk000i11rrr
    (0xE83D#16, [], .rorB 4#3 true 5#3),
    -- ROR.W register: 1110kkk001i11rrr
    (0xE87D#16, [], .rorW 4#3 true 5#3),
    -- ROR.L register: 1110kkk010i11rrr
    (0xE8BD#16, [], .rorL 4#3 true 5#3)] = true := by decide

theorem test_decode_shift_3 : decodesAll
   [
    -- ROR.W ea _memory: 1110011011eeeeee
    (0xE6E7#16, [], .rorMem (.predec 7#3))] = true := by decide

theorem test_decode_mul_div : decodesAll
   [
    -- MULU.L: 0100110000eeeeee
    (0x4C3C#16, [0x6405#16, 0x8000#16, 0x0001#16], .muluL 0#1 6#3 true 0#7 5#3 (.imm 0x80000001#32)),
    -- MULS.L: 0100110000eeeeee
    (0x4C03#16, [0x6805#16], .mulsL 0#1 6#3 false 0#7 5#3 (.dn 3#3)),
    -- DIVU.L _DIVUL.L: 0100110001eeeeee
    (0x4C55#16, [0x6405#16], .divuL 0#1 6#3 true 0#7 5#3 (.ind 5#3)),
    -- DIVS.L _DIVSL.L: 0100110001eeeeee
    (0x4C5E#16, [0x6805#16], .divsL 0#1 6#3 false 0#7 5#3 (.postinc 6#3)),
    -- DIVU.W: 1000rrr011eeeeee
    (0x8AFC#16, [0x8001#16], .divuW 5#3 (.imm 0x8001#32)),
    -- DIVS.W: 1000rrr111eeeeee
    (0x8BF8#16, [0x8004#16], .divsW 5#3 (.absW 0x8004#16)),
    -- MULU.W: 1100rrr011eeeeee
    (0xCAD5#16, [], .muluW 5#3 (.ind 5#3)),
    -- MULS.W: 1100rrr111eeeeee
    (0xCBDE#16, [], .mulsW 5#3 (.postinc 6#3))] = true := by decide

theorem test_decode_program_control_1 : decodesAll
   [
    -- NOP: 0100111001110001
    (0x4E71#16, [], .nop),
    -- RTD: 0100111001110100
    (0x4E74#16, [0x0008#16], .rtd 0x0008#16),
    -- RTS: 0100111001110101
    (0x4E75#16, [], .rts),
    -- RTR: 0100111001110111
    (0x4E77#16, [], .rtr),
    -- JSR: 0100111010eeeeee
    (0x4EB9#16, [0x0001#16, 0x2346#16], .jsr (.absL 0x00012346#32)),
    -- JMP: 0100111011eeeeee
    (0x4ED5#16, [], .jmp (.ind 5#3)),
    -- Scc: 0101cccc11eeeeee
    (0x5BC3#16, [], .scc 11#4 (.dn 3#3)),
    -- DBcc: 0101cccc11001rrr
    (0x5BCD#16, [0xFFF0#16], .dbcc 11#4 5#3 0xFFF0#16),
    -- BRA: 01100000dddddddd
    (0x60FC#16, [], .bra (.byte 0xFC#8)),
    -- BSR: 01100001dddddddd
    (0x6100#16, [0x8000#16], .bsr (.word 0x8000#16)),
    -- BHI: 01100010dddddddd
    (0x62FF#16, [0x0001#16, 0x0000#16], .bhi (.long 0x00010000#32)),
    -- BLS: 01100011dddddddd
    (0x63FC#16, [], .bls (.byte 0xFC#8)),
    -- BCC: 01100100dddddddd
    (0x6400#16, [0x8000#16], .bcc (.word 0x8000#16)),
    -- BCS: 01100101dddddddd
    (0x65FF#16, [0x0001#16, 0x0000#16], .bcs (.long 0x00010000#32)),
    -- BNE: 01100110dddddddd
    (0x66FC#16, [], .bne (.byte 0xFC#8)),
    -- BEQ: 01100111dddddddd
    (0x6700#16, [0x8000#16], .beq (.word 0x8000#16))] = true := by decide

theorem test_decode_program_control_2 : decodesAll
   [
    -- BVC: 01101000dddddddd
    (0x68FF#16, [0x0001#16, 0x0000#16], .bvc (.long 0x00010000#32)),
    -- BVS: 01101001dddddddd
    (0x69FC#16, [], .bvs (.byte 0xFC#8)),
    -- BPL: 01101010dddddddd
    (0x6A00#16, [0x8000#16], .bpl (.word 0x8000#16)),
    -- BMI: 01101011dddddddd
    (0x6BFF#16, [0x0001#16, 0x0000#16], .bmi (.long 0x00010000#32)),
    -- BGE: 01101100dddddddd
    (0x6CFC#16, [], .bge (.byte 0xFC#8)),
    -- BLT: 01101101dddddddd
    (0x6D00#16, [0x8000#16], .blt (.word 0x8000#16)),
    -- BGT: 01101110dddddddd
    (0x6EFF#16, [0x0001#16, 0x0000#16], .bgt (.long 0x00010000#32)),
    -- BLE: 01101111dddddddd
    (0x6FFC#16, [], .ble (.byte 0xFC#8))] = true := by decide

/-- Words of class U (R148, R150): 4AFB, a line-1010 word, a line-1111 word, F800 with another second word; MOVE.B from
an address register; ADDQ.B to one. -/
theorem test_decode_class_u :
    decode 0x4AFB#16 [] = .illegal ∧ decode 0xA123#16 [] = .lineA ∧ decode 0xFFFF#16 [] = .lineF ∧
    decode 0xF800#16 [0x01C1#16, 0#16] = .lineF ∧ decode 0x1008#16 [] = .illegal ∧ decode 0x5208#16 [] = .illegal := by
  decide

/-- Full extension words (R118, R123): BD Size 00 and IS with I/IS trap; memory indirection, bit 3, and a suppressed
base and index with a null displacement are unstated; suppressed base; suppressed index; long displacement. -/
theorem test_decode_full_extension : decodesAll
  [(0x4ED0#16 + 0x20#16, [0x0100#16], .jmp (.idx 0#3 (.illegal 0x0100#16))),
   (0x4EF0#16, [0x0151#16], .jmp (.idx 0#3 (.illegal 0x0151#16))),
   (0x4EF0#16, [0x0111#16], .jmp (.idx 0#3 (.unstated 0x0111#16))),
   (0x4EF0#16, [0x0118#16], .jmp (.idx 0#3 (.unstated 0x0118#16))),
   (0x4EF0#16, [0x01D0#16], .jmp (.idx 0#3 (.unstated 0x01D0#16))),
   (0x4EF0#16, [0x0190#16], .jmp (.idx 0#3 (.full ⟨0#4, false, 0#2⟩ true false .null))),
   (0x4EF0#16, [0x0160#16, 0x8000#16], .jmp (.idx 0#3 (.full ⟨0#4, false, 0#2⟩ false true (.word 0x8000#16)))),
   (0x4EFB#16, [0xFFB0#16, 0x0001#16, 0x0002#16],
    .jmp (.pcIdx (.full ⟨15#4, true, 3#2⟩ true false (.long 0x00010002#32))))] = true := by decide

/-- The numbering of spec/opcode_table.json: the first word in the low bits. -/
theorem test_decode_table_word :
    decodeTableWord 16 0x4E71 = some .nop ∧ decodeTableWord 32 0x08014E7B = some (.movecToCr 0#4 0x801#12) ∧
    decodeTableWord 16 0x0640 = some (.addiW 0#16 (.dn 0#3)) ∧ decodeTableWord 16 0xA000 = none := by decide

/-! ## The vectors of spec/95_test_vectors.md, sections 1 and 2 -/

/-- A place a vector names. -/
inductive Slot where
  | d (n : Fin 8)
  | a (n : Fin 7)
  | usp | ssp | pc | sr | vbr | sfc | dfc
  | mem (a : Nat) (sz : Size)

/-- Bytes put into a memory. -/
def putBytes (m : Memory) (a : Nat) : List Byte → Memory
  | [] => m
  | v :: vs => putBytes (m.set a v) (a + 1) vs

/-- A place of context 0 set. -/
def putSlot (s : State) (e : Slot × Long) : State :=
  let c := s.ctx
  let v := e.2
  match e.1 with
  | .d n => s.withCtx { c with d := c.d.set n v }
  | .a n => s.withCtx { c with a := c.a.set n v }
  | .usp => s.withCtx { c with usp := v }
  | .ssp => s.withCtx { c with ssp := v }
  | .pc => s.withCtx { c with pc := v }
  | .sr => s.withCtx { c with sr := v.setWidth 16 }
  | .vbr => s.withCtx { c with vbr := v }
  | .sfc => s.withCtx { c with sfc := v }
  | .dfc => s.withCtx { c with dfc := v }
  | .mem a sz => { s with mem := putBytes s.mem a (operandBytes sz v) }

/-- The start of every vector: pc 0x1000, SR 0x2700, SSP 0x4000, all else zero. -/
def vectorStart : State := State.reset.withCtx { State.reset.ctx with pc := 0x1000#32, ssp := 0x4000#32 }

/-- A vector: the words of the instruction, what differs from `vectorStart` before the step, what changes in it, and
whether SR and memory are compared too (not where the spec leaves a flag undefined). -/
structure RunTest where
  words : List Word
  before : List (Slot × Long)
  after : List (Slot × Long)
  whole : Bool

/-- The step gives exactly the changes listed. -/
def RunTest.passes (r : RunTest) : Bool :=
  let s0 := r.before.foldl putSlot vectorStart
  let s := { s0 with mem := putBytes s0.mem s0.ctx.pc.toNat (bytesOfWords r.words) }
  let e := r.after.foldl putSlot s
  match step s with
  | .next t =>
    t.mark = .none && t.ctx.d = e.ctx.d && t.ctx.a = e.ctx.a && t.ctx.usp = e.ctx.usp && t.ctx.ssp = e.ctx.ssp &&
      t.ctx.pc = e.ctx.pc && (!r.whole || (t.ctxs = e.ctxs && t.mem = e.mem))
  | _ => false

/-- Every vector of a list passes. -/
def vectorsPass (l : List RunTest) : Bool := l.all RunTest.passes


theorem test_vectors_file30 : vectorsPass
  [
    -- S
    ⟨[0xD2B1#16, 0xA411#16],
      [(.d 1, 0x1#32), (.a 1, 0x2003#32), (.a 2, 0xFFFF0003#32), (.mem 0x2020 .l, 0x7FFFFFFF#32)],
      [(.d 1, 0x80000000#32), (.pc, 0x1004#32), (.sr, 0x270A#32)], true⟩] = true := by decide +kernel


theorem test_vectors_file40_part1 : vectorsPass
  [
    -- MOVE.B #0x80,D0
    ⟨[0x103C#16, 0x0080#16],
      [(.d 0, 0x12345678#32), (.sr, 0x271F#32)],
      [(.d 0, 0x12345680#32), (.pc, 0x1004#32), (.sr, 0x2718#32)], true⟩,
    -- MOVE.W D0,D1
    ⟨[0x3200#16],
      [(.d 0, 0xABCD0000#32), (.d 1, 0x11112222#32), (.sr, 0x270B#32)],
      [(.d 1, 0x11110000#32), (.pc, 0x1002#32), (.sr, 0x2704#32)], true⟩,
    -- MOVE.L (A0)+,(A0)+
    ⟨[0x20D8#16],
      [(.a 0, 0x2000#32), (.mem 0x2000 .l, 0x11223344#32), (.mem 0x2004 .l, 0x55667788#32)],
      [(.a 0, 0x2008#32), (.pc, 0x1002#32), (.mem 0x2004 .l, 0x11223344#32)], true⟩,
    -- MOVEA.W #0x8000,A0
    ⟨[0x307C#16, 0x8000#16],
      [(.a 0, 0x12345678#32), (.sr, 0x271F#32)],
      [(.a 0, 0xFFFF8000#32), (.pc, 0x1004#32)], true⟩,
    -- MOVEA.L D0,A7
    ⟨[0x2E40#16],
      [(.d 0, 0x3000#32)],
      [(.ssp, 0x3000#32), (.pc, 0x1002#32)], true⟩,
    -- MOVEQ #-1,D3
    ⟨[0x76FF#16],
      [(.sr, 0x2710#32)],
      [(.d 3, 0xFFFFFFFF#32), (.pc, 0x1002#32), (.sr, 0x2718#32)], true⟩,
    -- MOVE.W 4(A0,D1.W*2),D2
    ⟨[0x3430#16, 0x1204#16],
      [(.d 1, 0xFFFF0003#32), (.d 2, 0xFFFFFFFF#32), (.a 0, 0x2000#32), (.mem 0x200A .w, 0x7FFF#32)],
      [(.d 2, 0xFFFF7FFF#32), (.pc, 0x1004#32)], true⟩,
    -- MOVEM.L D0/D1/A0,-(A7)
    ⟨[0x48E7#16, 0xC080#16],
      [(.d 0, 0xD0#32), (.d 1, 0xD1#32), (.a 0, 0xA0#32), (.ssp, 0x1000#32)],
      [(.ssp, 0xFF4#32), (.pc, 0x1004#32), (.mem 0xFF7 .b, 0xD0#32), (.mem 0xFFB .b, 0xD1#32), (.mem 0xFFF .b, 0xA0#32)], true⟩,
    -- MOVEM.L D0/A0,-(A0)
    ⟨[0x48E0#16, 0x8080#16],
      [(.d 0, 0xDDDDDDDD#32), (.a 0, 0x2008#32)],
      [(.a 0, 0x2000#32), (.pc, 0x1004#32), (.mem 0x2000 .l, 0xDDDDDDDD#32), (.mem 0x2006 .w, 0x2004#32)], true⟩,
    -- MOVEM.W (A0)+,D0/A1
    ⟨[0x4C98#16, 0x0201#16],
      [(.d 0, 0xFFFFFFFF#32), (.a 0, 0x3000#32), (.a 1, 0x55555555#32), (.mem 0x3000 .l, 0x80017FFF#32)],
      [(.d 0, 0xFFFF8001#32), (.a 0, 0x3004#32), (.a 1, 0x7FFF#32), (.pc, 0x1004#32)], true⟩,
    -- MOVEP.L D0,5(A1)
    ⟨[0x01C9#16, 0x0005#16],
      [(.d 0, 0x1234ABCD#32), (.a 1, 0x5000#32)],
      [(.pc, 0x1004#32), (.mem 0x5005 .b, 0x12#32), (.mem 0x5007 .b, 0x34#32), (.mem 0x5009 .b, 0xAB#32), (.mem 0x500B .b, 0xCD#32)], true⟩,
    -- MOVEP.W 0(A0),D1
    ⟨[0x0308#16, 0x0000#16],
      [(.d 1, 0xFFFFFFFF#32), (.a 0, 0x5000#32), (.mem 0x5000 .l, 0xAA11BB22#32)],
      [(.d 1, 0xFFFFAABB#32), (.pc, 0x1004#32)], true⟩] = true := by decide +kernel


theorem test_vectors_file40_part2 : vectorsPass
  [
    -- EXG D0,D1
    ⟨[0xC141#16],
      [(.d 0, 0x1#32), (.d 1, 0x2#32), (.sr, 0x271F#32)],
      [(.d 0, 0x2#32), (.d 1, 0x1#32), (.pc, 0x1002#32)], true⟩,
    -- LEA (0x10000,A1,D0.L*8),A0
    ⟨[0x41F1#16, 0x0F30#16, 0x0001#16, 0x0000#16],
      [(.d 0, 0x2#32), (.a 1, 0x100#32)],
      [(.a 0, 0x10110#32), (.pc, 0x1008#32)], true⟩,
    -- LEA (0x40,ZA1,D0.L*8),A0
    ⟨[0x41F1#16, 0x0FA0#16, 0x0040#16],
      [(.d 0, 0x2#32), (.a 1, 0x100#32)],
      [(.a 0, 0x50#32), (.pc, 0x1006#32)], true⟩,
    -- PEA 8(A0)
    ⟨[0x4868#16, 0x0008#16],
      [(.a 0, 0x2000#32)],
      [(.ssp, 0x3FFC#32), (.pc, 0x1004#32), (.mem 0x3FFE .w, 0x2008#32)], true⟩,
    -- LINK.W A6,#-8
    ⟨[0x4E56#16, 0xFFF8#16],
      [(.a 6, 0xAAAA0000#32), (.ssp, 0x1000#32)],
      [(.a 6, 0xFFC#32), (.ssp, 0xFF4#32), (.pc, 0x1004#32), (.mem 0xFFC .w, 0xAAAA#32)], true⟩,
    -- LINK.L A6,#-0x10000
    ⟨[0x480E#16, 0xFFFF#16, 0x0000#16],
      [(.a 6, 0xAAAA0000#32), (.ssp, 0x21000#32)],
      [(.a 6, 0x20FFC#32), (.ssp, 0x10FFC#32), (.pc, 0x1006#32), (.mem 0x20FFC .w, 0xAAAA#32)], true⟩,
    -- UNLK A6
    ⟨[0x4E5E#16],
      [(.a 6, 0xFFC#32), (.ssp, 0x800#32), (.mem 0xFFC .l, 0xAAAA0000#32)],
      [(.a 6, 0xAAAA0000#32), (.ssp, 0x1000#32), (.pc, 0x1002#32)], true⟩] = true := by decide +kernel


theorem test_vectors_file41_part1 : vectorsPass
  [
    -- ADD.B D1,D0
    ⟨[0xD001#16],
      [(.d 0, 0x1234567F#32), (.d 1, 0x1#32)],
      [(.d 0, 0x12345680#32), (.pc, 0x1002#32), (.sr, 0x270A#32)], true⟩,
    -- ADD.W D0,(A0)
    ⟨[0xD150#16],
      [(.d 0, 0x1#32), (.a 0, 0x2000#32), (.mem 0x2000 .w, 0xFFFF#32)],
      [(.pc, 0x1002#32), (.sr, 0x2715#32), (.mem 0x2000 .w, 0x0#32)], true⟩,
    -- ADD.L (A0)+,D0
    ⟨[0xD098#16],
      [(.d 0, 0x80000000#32), (.a 0, 0x2000#32), (.mem 0x2000 .l, 0x80000000#32)],
      [(.d 0, 0x0#32), (.a 0, 0x2004#32), (.pc, 0x1002#32), (.sr, 0x2717#32)], true⟩,
    -- ADDA.W #0x8000,A0
    ⟨[0xD0FC#16, 0x8000#16],
      [(.a 0, 0x10000#32), (.sr, 0x271F#32)],
      [(.a 0, 0x8000#32), (.pc, 0x1004#32)], true⟩,
    -- ADDA.L D0,A0
    ⟨[0xD1C0#16],
      [(.d 0, 0x2#32), (.a 0, 0xFFFFFFFF#32)],
      [(.a 0, 0x1#32), (.pc, 0x1002#32)], true⟩,
    -- ADDI.L #1,D0
    ⟨[0x0680#16, 0x0000#16, 0x0001#16],
      [(.d 0, 0x7FFFFFFF#32)],
      [(.d 0, 0x80000000#32), (.pc, 0x1006#32), (.sr, 0x270A#32)], true⟩,
    -- ADDI.B #0x10,(A0)
    ⟨[0x0610#16, 0x0010#16],
      [(.a 0, 0x2000#32), (.mem 0x2000 .b, 0xF0#32)],
      [(.pc, 0x1004#32), (.sr, 0x2715#32), (.mem 0x2000 .b, 0x0#32)], true⟩,
    -- ADDQ.W #8,A0
    ⟨[0x5048#16],
      [(.a 0, 0xFFFC#32), (.sr, 0x271F#32)],
      [(.a 0, 0x10004#32), (.pc, 0x1002#32)], true⟩,
    -- ADDQ.B #8,D0
    ⟨[0x5000#16],
      [(.d 0, 0xFC#32)],
      [(.d 0, 0x4#32), (.pc, 0x1002#32), (.sr, 0x2711#32)], true⟩,
    -- SUBQ.L #1,D0
    ⟨[0x5380#16],
      [],
      [(.d 0, 0xFFFFFFFF#32), (.pc, 0x1002#32), (.sr, 0x2719#32)], true⟩,
    -- SUBQ.W #1,A1
    ⟨[0x5349#16],
      [(.a 1, 0x10000#32)],
      [(.a 1, 0xFFFF#32), (.pc, 0x1002#32)], true⟩,
    -- ADDX.L D1,D0
    ⟨[0xD181#16],
      [(.d 0, 0xFFFFFFFF#32), (.sr, 0x2714#32)],
      [(.d 0, 0x0#32), (.pc, 0x1002#32), (.sr, 0x2715#32)], true⟩] = true := by decide +kernel


theorem test_vectors_file41_part2 : vectorsPass
  [
    -- ADDX.B -(A0),-(A1)
    ⟨[0xD308#16],
      [(.a 0, 0x2001#32), (.a 1, 0x3001#32), (.sr, 0x2710#32), (.mem 0x2000 .b, 0xFF#32), (.mem 0x3000 .b, 0x1#32)],
      [(.a 0, 0x2000#32), (.a 1, 0x3000#32), (.pc, 0x1002#32), (.sr, 0x2711#32)], true⟩,
    -- SUB.W D1,D0
    ⟨[0x9041#16],
      [(.d 0, 0x8000#32), (.d 1, 0x1#32)],
      [(.d 0, 0x7FFF#32), (.pc, 0x1002#32), (.sr, 0x2702#32)], true⟩,
    -- SUB.B D1,D0
    ⟨[0x9001#16],
      [(.d 1, 0x1#32)],
      [(.d 0, 0xFF#32), (.pc, 0x1002#32), (.sr, 0x2719#32)], true⟩,
    -- SUB.L D0,(A0)
    ⟨[0x9190#16],
      [(.d 0, 0x1#32), (.a 0, 0x2000#32), (.mem 0x2000 .l, 0x1#32)],
      [(.pc, 0x1002#32), (.sr, 0x2704#32), (.mem 0x2003 .b, 0x0#32)], true⟩,
    -- SUBA.W D0,A0
    ⟨[0x90C0#16],
      [(.d 0, 0xFFFF#32), (.a 0, 0x1000#32), (.sr, 0x271F#32)],
      [(.a 0, 0x1001#32), (.pc, 0x1002#32)], true⟩,
    -- SUBI.B #1,D0
    ⟨[0x0400#16, 0x0001#16],
      [(.d 0, 0x80#32)],
      [(.d 0, 0x7F#32), (.pc, 0x1004#32), (.sr, 0x2702#32)], true⟩,
    -- SUBX.L D1,D0
    ⟨[0x9181#16],
      [(.sr, 0x2714#32)],
      [(.d 0, 0xFFFFFFFF#32), (.pc, 0x1002#32), (.sr, 0x2719#32)], true⟩,
    -- SUBX.B D1,D0
    ⟨[0x9101#16],
      [(.d 0, 0x1#32), (.sr, 0x2714#32)],
      [(.d 0, 0x0#32), (.pc, 0x1002#32), (.sr, 0x2704#32)], true⟩,
    -- SUBX.W -(A0),-(A0)
    ⟨[0x9148#16],
      [(.a 0, 0x2004#32), (.mem 0x2000 .l, 0x30001#32)],
      [(.a 0, 0x2000#32), (.pc, 0x1002#32), (.mem 0x2001 .b, 0x2#32)], true⟩,
    -- NEG.B D0
    ⟨[0x4400#16],
      [(.d 0, 0x80#32)],
      [(.pc, 0x1002#32), (.sr, 0x271B#32)], true⟩,
    -- NEG.L D0
    ⟨[0x4480#16],
      [(.sr, 0x271B#32)],
      [(.pc, 0x1002#32), (.sr, 0x2704#32)], true⟩,
    -- NEG.W (A0)
    ⟨[0x4450#16],
      [(.a 0, 0x2000#32), (.mem 0x2000 .w, 0x1#32)],
      [(.pc, 0x1002#32), (.sr, 0x2719#32), (.mem 0x2000 .w, 0xFFFF#32)], true⟩] = true := by decide +kernel


theorem test_vectors_file41_part3 : vectorsPass
  [
    -- NEGX.B D0
    ⟨[0x4000#16],
      [(.d 0, 0xFF#32), (.sr, 0x2714#32)],
      [(.d 0, 0x0#32), (.pc, 0x1002#32), (.sr, 0x2715#32)], true⟩,
    -- CLR.W (A0)
    ⟨[0x4250#16],
      [(.a 0, 0x2000#32), (.sr, 0x271B#32), (.mem 0x2000 .w, 0xFFFF#32)],
      [(.pc, 0x1002#32), (.sr, 0x2714#32), (.mem 0x2000 .w, 0x0#32)], true⟩,
    -- CLR.B D0
    ⟨[0x4200#16],
      [(.d 0, 0xFFFFFFFF#32)],
      [(.d 0, 0xFFFFFF00#32), (.pc, 0x1002#32), (.sr, 0x2704#32)], true⟩,
    -- EXT.W D0
    ⟨[0x4880#16],
      [(.d 0, 0xFFFF0080#32)],
      [(.d 0, 0xFFFFFF80#32), (.pc, 0x1002#32), (.sr, 0x2708#32)], true⟩,
    -- EXT.L D0
    ⟨[0x48C0#16],
      [(.d 0, 0x12347FFF#32)],
      [(.d 0, 0x7FFF#32), (.pc, 0x1002#32)], true⟩,
    -- EXTB.L D0
    ⟨[0x49C0#16],
      [(.d 0, 0x123456FF#32)],
      [(.d 0, 0xFFFFFFFF#32), (.pc, 0x1002#32), (.sr, 0x2708#32)], true⟩,
    -- CMP.W D1,D0
    ⟨[0xB041#16],
      [(.d 0, 0x8000#32), (.d 1, 0x5#32), (.sr, 0x2710#32)],
      [(.pc, 0x1002#32), (.sr, 0x2712#32)], true⟩,
    -- CMP.B D1,D0
    ⟨[0xB001#16],
      [(.d 0, 0x5#32), (.d 1, 0x5#32)],
      [(.pc, 0x1002#32), (.sr, 0x2704#32)], true⟩,
    -- CMP.L D1,D0
    ⟨[0xB081#16],
      [(.d 0, 0x1#32), (.d 1, 0x2#32)],
      [(.pc, 0x1002#32), (.sr, 0x2709#32)], true⟩,
    -- CMPA.W #0x8000,A0
    ⟨[0xB0FC#16, 0x8000#16],
      [(.a 0, 0xFFFF8000#32)],
      [(.pc, 0x1004#32), (.sr, 0x2704#32)], true⟩,
    -- CMPA.L D0,A0
    ⟨[0xB1C0#16],
      [(.d 0, 0xFFFFFFFF#32), (.a 0, 0x1#32)],
      [(.pc, 0x1002#32), (.sr, 0x2701#32)], true⟩,
    -- CMPI.B #0x80,D0
    ⟨[0x0C00#16, 0x0080#16],
      [(.d 0, 0x7F#32)],
      [(.pc, 0x1004#32), (.sr, 0x270B#32)], true⟩] = true := by decide +kernel


theorem test_vectors_file41_part4 : vectorsPass
  [
    -- CMPM.B (A0)+,(A1)+
    ⟨[0xB308#16],
      [(.a 0, 0x2000#32), (.a 1, 0x3000#32), (.mem 0x2000 .b, 0x2#32), (.mem 0x3000 .b, 0x1#32)],
      [(.a 0, 0x2001#32), (.a 1, 0x3001#32), (.pc, 0x1002#32), (.sr, 0x2709#32)], true⟩,
    -- CMPM.W (A0)+,(A0)+
    ⟨[0xB148#16],
      [(.a 0, 0x2000#32), (.mem 0x2000 .l, 0x50005#32)],
      [(.a 0, 0x2004#32), (.pc, 0x1002#32), (.sr, 0x2704#32)], true⟩,
    -- CMP2.B (A0),D1
    ⟨[0x00D0#16, 0x1000#16],
      [(.d 1, 0x20#32), (.a 0, 0x2000#32), (.mem 0x2000 .w, 0x1020#32)],
      [(.pc, 0x1004#32)], false⟩,
    -- CMP2.B (A0),D1
    ⟨[0x00D0#16, 0x1000#16],
      [(.d 1, 0x21#32), (.a 0, 0x2000#32), (.mem 0x2000 .w, 0x1020#32)],
      [(.pc, 0x1004#32)], false⟩,
    -- CMP2.W (A0),A1
    ⟨[0x02D0#16, 0x9000#16],
      [(.a 0, 0x2000#32), (.a 1, 0xFFFFFFF8#32), (.mem 0x2000 .l, 0xFFF00010#32)],
      [(.pc, 0x1004#32)], false⟩] = true := by decide +kernel


theorem test_vectors_file42_part1 : vectorsPass
  [
    -- MULS.W D1,D0
    ⟨[0xC1C1#16],
      [(.d 0, 0xFFFF8000#32), (.d 1, 0x8000#32)],
      [(.d 0, 0x40000000#32), (.pc, 0x1002#32)], true⟩,
    -- MULU.W D1,D0
    ⟨[0xC0C1#16],
      [(.d 0, 0x1234FFFF#32), (.d 1, 0xFFFF#32)],
      [(.d 0, 0xFFFE0001#32), (.pc, 0x1002#32), (.sr, 0x2708#32)], true⟩,
    -- MULU.L D1,D0
    ⟨[0x4C01#16, 0x0000#16],
      [(.d 0, 0x10000#32), (.d 1, 0x10000#32)],
      [(.d 0, 0x0#32), (.pc, 0x1004#32), (.sr, 0x2706#32)], true⟩,
    -- MULS.L D1,D0
    ⟨[0x4C01#16, 0x0800#16],
      [(.d 0, 0xFFFFFFFF#32), (.d 1, 0x2#32)],
      [(.d 0, 0xFFFFFFFE#32), (.pc, 0x1004#32), (.sr, 0x2708#32)], true⟩,
    -- MULS.L D1,D0
    ⟨[0x4C01#16, 0x0800#16],
      [(.d 0, 0x40000000#32), (.d 1, 0x2#32)],
      [(.d 0, 0x80000000#32), (.pc, 0x1004#32), (.sr, 0x270A#32)], true⟩,
    -- DIVS.W D1,D0
    ⟨[0x81C1#16],
      [(.d 0, 0xFFFFFFF9#32), (.d 1, 0x2#32)],
      [(.d 0, 0xFFFFFFFD#32), (.pc, 0x1002#32), (.sr, 0x2708#32)], true⟩,
    -- DIVS.W D1,D0
    ⟨[0x81C1#16],
      [(.d 0, 0x7#32), (.d 1, 0xFFFE#32)],
      [(.d 0, 0x1FFFD#32), (.pc, 0x1002#32), (.sr, 0x2708#32)], true⟩,
    -- DIVU.W D1,D0
    ⟨[0x80C1#16],
      [(.d 0, 0x10000#32), (.d 1, 0x2#32)],
      [(.d 0, 0x8000#32), (.pc, 0x1002#32), (.sr, 0x2708#32)], true⟩,
    -- DIVU.L D1,D0
    ⟨[0x4C41#16, 0x0000#16],
      [(.d 0, 0x7#32), (.d 1, 0x2#32)],
      [(.d 0, 0x3#32), (.pc, 0x1004#32)], true⟩,
    -- DIVUL.L D1,D2:D0
    ⟨[0x4C41#16, 0x0002#16],
      [(.d 0, 0x7#32), (.d 1, 0x2#32), (.d 2, 0x55555555#32)],
      [(.d 0, 0x3#32), (.d 2, 0x1#32), (.pc, 0x1004#32)], true⟩,
    -- DIVS.L D1,D0
    ⟨[0x4C41#16, 0x0800#16],
      [(.d 0, 0xFFFFFFF9#32), (.d 1, 0x2#32)],
      [(.d 0, 0xFFFFFFFD#32), (.pc, 0x1004#32), (.sr, 0x2708#32)], true⟩,
    -- DIVSL.L D1,D2:D0
    ⟨[0x4C41#16, 0x0802#16],
      [(.d 0, 0xFFFFFFF9#32), (.d 1, 0x2#32), (.d 2, 0x55555555#32)],
      [(.d 0, 0xFFFFFFFD#32), (.d 2, 0xFFFFFFFF#32), (.pc, 0x1004#32), (.sr, 0x2708#32)], true⟩] = true := by decide +kernel


theorem test_vectors_file42_part2 : vectorsPass
  [
    -- DIVS.L D1,D0
    ⟨[0x4C41#16, 0x0800#16],
      [(.d 0, 0x80000000#32), (.d 1, 0xFFFFFFFF#32)],
      [(.pc, 0x1004#32)], false⟩] = true := by decide +kernel


theorem test_vectors_file43_part1 : vectorsPass
  [
    -- AND.B D1,D0
    ⟨[0xC001#16],
      [(.d 0, 0x123456F0#32), (.d 1, 0x3C#32), (.sr, 0x271F#32)],
      [(.d 0, 0x12345630#32), (.pc, 0x1002#32), (.sr, 0x2710#32)], true⟩,
    -- AND.L D0,(A0)
    ⟨[0xC190#16],
      [(.d 0, 0xFF00FF00#32), (.a 0, 0x2000#32), (.mem 0x2000 .l, 0x12345678#32)],
      [(.pc, 0x1002#32), (.mem 0x2001 .b, 0x0#32), (.mem 0x2003 .b, 0x0#32)], true⟩,
    -- ANDI.W #0x00FF,D0
    ⟨[0x0240#16, 0x00FF#16],
      [(.d 0, 0xFFFF8080#32)],
      [(.d 0, 0xFFFF0080#32), (.pc, 0x1004#32)], true⟩,
    -- OR.W (A0),D0
    ⟨[0x8050#16],
      [(.d 0, 0xF00#32), (.a 0, 0x2000#32), (.mem 0x2000 .w, 0x8001#32)],
      [(.d 0, 0x8F01#32), (.pc, 0x1002#32), (.sr, 0x2708#32)], true⟩,
    -- OR.B D0,(A0)
    ⟨[0x8110#16],
      [(.d 0, 0x1#32), (.a 0, 0x2000#32), (.mem 0x2000 .b, 0x80#32)],
      [(.pc, 0x1002#32), (.sr, 0x2708#32), (.mem 0x2000 .b, 0x81#32)], true⟩,
    -- ORI.L #0x80000000,D0
    ⟨[0x0080#16, 0x8000#16, 0x0000#16],
      [(.d 0, 0x1#32)],
      [(.d 0, 0x80000001#32), (.pc, 0x1006#32), (.sr, 0x2708#32)], true⟩,
    -- EOR.W D0,D1
    ⟨[0xB141#16],
      [(.d 0, 0xFFFF#32), (.d 1, 0x1234FFFF#32)],
      [(.d 1, 0x12340000#32), (.pc, 0x1002#32), (.sr, 0x2704#32)], true⟩,
    -- EOR.L D0,(A0)+
    ⟨[0xB198#16],
      [(.d 0, 0xFFFFFFFF#32), (.a 0, 0x2000#32), (.mem 0x2000 .l, 0xF0F0F0F#32)],
      [(.a 0, 0x2004#32), (.pc, 0x1002#32), (.sr, 0x2708#32), (.mem 0x2000 .l, 0xF0F0F0F0#32)], true⟩,
    -- EORI.B #0xFF,D0
    ⟨[0x0A00#16, 0x00FF#16],
      [(.d 0, 0xAA#32)],
      [(.d 0, 0x55#32), (.pc, 0x1004#32)], true⟩,
    -- NOT.W D0
    ⟨[0x4640#16],
      [(.d 0, 0x1234FFFF#32), (.sr, 0x2713#32)],
      [(.d 0, 0x12340000#32), (.pc, 0x1002#32), (.sr, 0x2714#32)], true⟩,
    -- NOT.B (A0)
    ⟨[0x4610#16],
      [(.a 0, 0x2000#32), (.mem 0x2000 .b, 0x7F#32)],
      [(.pc, 0x1002#32), (.sr, 0x2708#32), (.mem 0x2000 .b, 0x80#32)], true⟩,
    -- TST.L D0
    ⟨[0x4A80#16],
      [(.d 0, 0x80000000#32), (.sr, 0x2713#32)],
      [(.pc, 0x1002#32), (.sr, 0x2718#32)], true⟩] = true := by decide +kernel


theorem test_vectors_file43_part2 : vectorsPass
  [
    -- TST.W (A0)+
    ⟨[0x4A58#16],
      [(.a 0, 0x2000#32), (.mem 0x2000 .w, 0x0#32)],
      [(.a 0, 0x2002#32), (.pc, 0x1002#32), (.sr, 0x2704#32)], true⟩,
    -- TST.B -1(A0)
    ⟨[0x4A28#16, 0xFFFF#16],
      [(.a 0, 0x2001#32), (.sr, 0x270F#32), (.mem 0x2000 .b, 0x1#32)],
      [(.pc, 0x1004#32), (.sr, 0x2700#32)], true⟩] = true := by decide +kernel


theorem test_vectors_file44_part1 : vectorsPass
  [
    -- ASL.B #1,D0
    ⟨[0xE300#16],
      [(.d 0, 0x40#32)],
      [(.d 0, 0x80#32), (.pc, 0x1002#32), (.sr, 0x270A#32)], true⟩,
    -- ASL.W #2,D0
    ⟨[0xE540#16],
      [(.d 0, 0x6000#32)],
      [(.d 0, 0x8000#32), (.pc, 0x1002#32), (.sr, 0x271B#32)], true⟩,
    -- ASL.L D1,D0
    ⟨[0xE3A0#16],
      [(.d 0, 0xFFFFFFFF#32), (.d 1, 0x21#32)],
      [(.d 0, 0x0#32), (.pc, 0x1002#32), (.sr, 0x2706#32)], true⟩,
    -- ASR.W #8,D0
    ⟨[0xE040#16],
      [(.d 0, 0x1234ABCD#32)],
      [(.d 0, 0x1234FFAB#32), (.pc, 0x1002#32), (.sr, 0x2719#32)], true⟩,
    -- ASR.B #1,D0
    ⟨[0xE200#16],
      [(.d 0, 0x1#32)],
      [(.d 0, 0x0#32), (.pc, 0x1002#32), (.sr, 0x2715#32)], true⟩,
    -- ASR.L D1,D0
    ⟨[0xE2A0#16],
      [(.d 0, 0x80000000#32), (.d 1, 0x3F#32)],
      [(.d 0, 0xFFFFFFFF#32), (.pc, 0x1002#32), (.sr, 0x2719#32)], true⟩,
    -- LSL.W D1,D0
    ⟨[0xE368#16],
      [(.d 0, 0xFFFF#32), (.d 1, 0x11#32)],
      [(.d 0, 0x0#32), (.pc, 0x1002#32), (.sr, 0x2704#32)], true⟩,
    -- LSL.L #1,D0
    ⟨[0xE388#16],
      [(.d 0, 0x80000001#32)],
      [(.d 0, 0x2#32), (.pc, 0x1002#32), (.sr, 0x2711#32)], true⟩,
    -- LSR.W #8,D0
    ⟨[0xE048#16],
      [(.d 0, 0x1234ABCD#32)],
      [(.d 0, 0x123400AB#32), (.pc, 0x1002#32), (.sr, 0x2711#32)], true⟩,
    -- LSR.L #1,D0
    ⟨[0xE288#16],
      [(.d 0, 0x1#32)],
      [(.d 0, 0x0#32), (.pc, 0x1002#32), (.sr, 0x2715#32)], true⟩,
    -- LSR.B D1,D0
    ⟨[0xE228#16],
      [(.d 0, 0xFF#32), (.sr, 0x2711#32)],
      [(.pc, 0x1002#32), (.sr, 0x2718#32)], true⟩,
    -- ROL.W #8,D0
    ⟨[0xE158#16],
      [(.d 0, 0x1234#32)],
      [(.d 0, 0x3412#32), (.pc, 0x1002#32)], true⟩] = true := by decide +kernel


theorem test_vectors_file44_part2 : vectorsPass
  [
    -- ROL.B #1,D0
    ⟨[0xE318#16],
      [(.d 0, 0x80#32), (.sr, 0x2710#32)],
      [(.d 0, 0x1#32), (.pc, 0x1002#32), (.sr, 0x2711#32)], true⟩,
    -- ROR.W #8,D0
    ⟨[0xE058#16],
      [(.d 0, 0x1234#32)],
      [(.d 0, 0x3412#32), (.pc, 0x1002#32)], true⟩,
    -- ROR.L #1,D0
    ⟨[0xE298#16],
      [(.d 0, 0x1#32)],
      [(.d 0, 0x80000000#32), (.pc, 0x1002#32), (.sr, 0x2709#32)], true⟩,
    -- ROL.L D1,D0
    ⟨[0xE3B8#16],
      [(.d 0, 0x80000001#32), (.d 1, 0x20#32)],
      [(.pc, 0x1002#32), (.sr, 0x2709#32)], true⟩,
    -- ROXL.B #1,D0
    ⟨[0xE310#16],
      [(.d 0, 0x80#32)],
      [(.d 0, 0x0#32), (.pc, 0x1002#32), (.sr, 0x2715#32)], true⟩,
    -- ROXR.L #1,D0
    ⟨[0xE290#16],
      [(.d 0, 0x1#32), (.sr, 0x2710#32)],
      [(.d 0, 0x80000000#32), (.pc, 0x1002#32), (.sr, 0x2719#32)], true⟩,
    -- ROXL.L D1,D0
    ⟨[0xE3B0#16],
      [(.d 0, 0x12345678#32), (.sr, 0x2710#32)],
      [(.pc, 0x1002#32), (.sr, 0x2711#32)], true⟩,
    -- ROXR.W D1,D0
    ⟨[0xE270#16],
      [(.d 0, 0x8001#32), (.d 1, 0x2#32)],
      [(.d 0, 0xA000#32), (.pc, 0x1002#32), (.sr, 0x2708#32)], true⟩,
    -- ROXL.W (A0)
    ⟨[0xE5D0#16],
      [(.a 0, 0x2000#32), (.sr, 0x2710#32), (.mem 0x2000 .w, 0x8000#32)],
      [(.pc, 0x1002#32), (.sr, 0x2711#32), (.mem 0x2000 .w, 0x1#32)], true⟩,
    -- SWAP D0
    ⟨[0x4840#16],
      [(.d 0, 0x18000#32), (.sr, 0x271F#32)],
      [(.d 0, 0x80000001#32), (.pc, 0x1002#32), (.sr, 0x2718#32)], true⟩] = true := by decide +kernel


theorem test_vectors_file45 : vectorsPass
  [
    -- BTST #39,D0
    ⟨[0x0800#16, 0x0027#16],
      [(.d 0, 0x80#32), (.sr, 0x271B#32)],
      [(.pc, 0x1004#32)], true⟩,
    -- BTST #9,(A0)
    ⟨[0x0810#16, 0x0009#16],
      [(.a 0, 0x2000#32), (.mem 0x2000 .b, 0xFD#32)],
      [(.pc, 0x1004#32), (.sr, 0x2704#32)], true⟩,
    -- BTST D1,(A0)
    ⟨[0x0310#16],
      [(.d 1, 0xF#32), (.a 0, 0x2000#32), (.mem 0x2000 .b, 0x80#32)],
      [(.pc, 0x1002#32)], true⟩,
    -- BTST D1,4(PC)
    ⟨[0x033A#16, 0x0004#16],
      [(.sr, 0x2704#32), (.mem 0x1006 .b, 0x1#32)],
      [(.pc, 0x1004#32), (.sr, 0x2700#32)], true⟩,
    -- BCHG #0,D0
    ⟨[0x0840#16, 0x0000#16],
      [],
      [(.d 0, 0x1#32), (.pc, 0x1004#32), (.sr, 0x2704#32)], true⟩,
    -- BCHG D1,D0
    ⟨[0x0340#16],
      [(.d 0, 0x80000000#32), (.d 1, 0x1F#32)],
      [(.d 0, 0x0#32), (.pc, 0x1002#32)], true⟩,
    -- BCLR D1,D0
    ⟨[0x0380#16],
      [(.d 0, 0xFFFFFFFF#32), (.d 1, 0x20#32)],
      [(.d 0, 0xFFFFFFFE#32), (.pc, 0x1002#32)], true⟩,
    -- BCLR #7,(A0)
    ⟨[0x0890#16, 0x0007#16],
      [(.a 0, 0x2000#32), (.mem 0x2000 .b, 0x7F#32)],
      [(.pc, 0x1004#32), (.sr, 0x2704#32)], true⟩,
    -- BSET #3,(A0)+
    ⟨[0x08D8#16, 0x0003#16],
      [(.a 0, 0x2000#32), (.mem 0x2000 .b, 0x0#32)],
      [(.a 0, 0x2001#32), (.pc, 0x1004#32), (.sr, 0x2704#32), (.mem 0x2000 .b, 0x8#32)], true⟩,
    -- BSET D1,D0
    ⟨[0x03C0#16],
      [(.d 1, 0xFFFFFFFF#32)],
      [(.d 0, 0x80000000#32), (.pc, 0x1002#32), (.sr, 0x2704#32)], true⟩,
    -- TAS (A0)
    ⟨[0x4AD0#16],
      [(.a 0, 0x2000#32), (.sr, 0x2713#32), (.mem 0x2000 .b, 0x0#32)],
      [(.pc, 0x1002#32), (.sr, 0x2714#32), (.mem 0x2000 .b, 0x80#32)], true⟩] = true := by decide +kernel


theorem test_vectors_file46 : vectorsPass
  [
    -- ABCD D1,D0
    ⟨[0xC101#16],
      [(.d 0, 0x49#32), (.d 1, 0x52#32), (.sr, 0x2704#32)],
      [(.d 0, 0x1#32), (.pc, 0x1002#32)], false⟩,
    -- ABCD D1,D0
    ⟨[0xC101#16],
      [(.d 0, 0x99#32), (.d 1, 0x1#32), (.sr, 0x2704#32)],
      [(.d 0, 0x0#32), (.pc, 0x1002#32)], false⟩,
    -- SBCD D1,D0
    ⟨[0x8101#16],
      [(.d 0, 0x10#32), (.d 1, 0x1#32), (.sr, 0x2704#32)],
      [(.d 0, 0x9#32), (.pc, 0x1002#32)], false⟩,
    -- SBCD D1,D0
    ⟨[0x8101#16],
      [(.d 1, 0x1#32), (.sr, 0x2704#32)],
      [(.d 0, 0x99#32), (.pc, 0x1002#32)], false⟩,
    -- NBCD D0
    ⟨[0x4800#16],
      [(.sr, 0x2704#32)],
      [(.pc, 0x1002#32)], false⟩,
    -- NBCD D0
    ⟨[0x4800#16],
      [(.d 0, 0x1#32), (.sr, 0x2704#32)],
      [(.d 0, 0x99#32), (.pc, 0x1002#32)], false⟩] = true := by decide +kernel


theorem test_vectors_file47_part1 : vectorsPass
  [
    -- BEQ.S *+6
    ⟨[0x6704#16],
      [(.sr, 0x2704#32)],
      [(.pc, 0x1006#32)], true⟩,
    -- BNE.W *-2
    ⟨[0x6600#16, 0xFFFC#16],
      [],
      [(.pc, 0xFFE#32)], true⟩,
    -- BNE.W *-2
    ⟨[0x6600#16, 0xFFFC#16],
      [(.sr, 0x2704#32)],
      [(.pc, 0x1004#32)], true⟩,
    -- BRA.L *+0x10002
    ⟨[0x60FF#16, 0x0001#16, 0x0000#16],
      [],
      [(.pc, 0x11002#32)], true⟩,
    -- BRA.S *+0
    ⟨[0x60FE#16],
      [],
      [], true⟩,
    -- BGE.S *+4
    ⟨[0x6C02#16],
      [(.sr, 0x270A#32)],
      [(.pc, 0x1004#32)], true⟩,
    -- BLT.S *+4
    ⟨[0x6D02#16],
      [(.sr, 0x2708#32)],
      [(.pc, 0x1004#32)], true⟩,
    -- BGT.S *+4
    ⟨[0x6E02#16],
      [(.sr, 0x2704#32)],
      [(.pc, 0x1002#32)], true⟩,
    -- BLE.S *+4
    ⟨[0x6F02#16],
      [(.sr, 0x2704#32)],
      [(.pc, 0x1004#32)], true⟩,
    -- BHI.S *+4
    ⟨[0x6202#16],
      [],
      [(.pc, 0x1004#32)], true⟩,
    -- BLS.S *+4
    ⟨[0x6302#16],
      [(.sr, 0x2701#32)],
      [(.pc, 0x1004#32)], true⟩,
    -- BCC.S *+4
    ⟨[0x6402#16],
      [(.sr, 0x2701#32)],
      [(.pc, 0x1002#32)], true⟩] = true := by decide +kernel


theorem test_vectors_file47_part2 : vectorsPass
  [
    -- BCS.S *+4
    ⟨[0x6502#16],
      [(.sr, 0x2701#32)],
      [(.pc, 0x1004#32)], true⟩,
    -- BVC.S *+4
    ⟨[0x6802#16],
      [(.sr, 0x2702#32)],
      [(.pc, 0x1002#32)], true⟩,
    -- BVS.S *+4
    ⟨[0x6902#16],
      [(.sr, 0x2702#32)],
      [(.pc, 0x1004#32)], true⟩,
    -- BPL.S *+4
    ⟨[0x6A02#16],
      [(.sr, 0x2708#32)],
      [(.pc, 0x1002#32)], true⟩,
    -- BMI.S *+4
    ⟨[0x6B02#16],
      [(.sr, 0x2708#32)],
      [(.pc, 0x1004#32)], true⟩,
    -- BSR.S *+6
    ⟨[0x6104#16],
      [],
      [(.ssp, 0x3FFC#32), (.pc, 0x1006#32), (.mem 0x3FFE .w, 0x1002#32)], true⟩,
    -- BSR.W *+0x102
    ⟨[0x6100#16, 0x0100#16],
      [],
      [(.ssp, 0x3FFC#32), (.pc, 0x1102#32), (.mem 0x3FFE .w, 0x1004#32)], true⟩,
    -- BSR.L *+0x10002
    ⟨[0x61FF#16, 0x0001#16, 0x0000#16],
      [],
      [(.ssp, 0x3FFC#32), (.pc, 0x11002#32), (.mem 0x3FFE .w, 0x1006#32)], true⟩,
    -- DBF D0,*-2
    ⟨[0x51C8#16, 0xFFFC#16],
      [(.d 0, 0x10002#32), (.pc, 0x1004#32)],
      [(.d 0, 0x10001#32), (.pc, 0x1002#32)], true⟩,
    -- DBF D0,*-2
    ⟨[0x51C8#16, 0xFFFC#16],
      [(.d 0, 0x10000#32), (.pc, 0x1004#32)],
      [(.d 0, 0x1FFFF#32), (.pc, 0x1008#32)], true⟩,
    -- DBEQ D0,*-2
    ⟨[0x57C8#16, 0xFFFC#16],
      [(.d 0, 0x5#32), (.pc, 0x1004#32), (.sr, 0x2704#32)],
      [(.pc, 0x1008#32)], true⟩,
    -- SEQ D1
    ⟨[0x57C1#16],
      [(.d 1, 0x12345678#32), (.sr, 0x2704#32)],
      [(.d 1, 0x123456FF#32), (.pc, 0x1002#32)], true⟩] = true := by decide +kernel


theorem test_vectors_file47_part3 : vectorsPass
  [
    -- SNE (A0)
    ⟨[0x56D0#16],
      [(.a 0, 0x2000#32), (.sr, 0x2704#32), (.mem 0x2000 .b, 0x55#32)],
      [(.pc, 0x1002#32), (.mem 0x2000 .b, 0x0#32)], true⟩,
    -- ST -(A7)
    ⟨[0x50E7#16],
      [],
      [(.ssp, 0x3FFE#32), (.pc, 0x1002#32), (.mem 0x3FFE .b, 0xFF#32)], true⟩,
    -- SF D0
    ⟨[0x51C0#16],
      [(.d 0, 0xFFFFFFFF#32), (.sr, 0x271F#32)],
      [(.d 0, 0xFFFFFF00#32), (.pc, 0x1002#32)], true⟩,
    -- JMP (A0)
    ⟨[0x4ED0#16],
      [(.a 0, 0x2000#32)],
      [(.pc, 0x2000#32)], true⟩,
    -- JSR (A0)
    ⟨[0x4E90#16],
      [(.a 0, 0x2000#32)],
      [(.ssp, 0x3FFC#32), (.pc, 0x2000#32), (.mem 0x3FFE .w, 0x1002#32)], true⟩,
    -- RTS
    ⟨[0x4E75#16],
      [(.ssp, 0x3FFC#32), (.mem 0x3FFC .l, 0x2000#32)],
      [(.ssp, 0x4000#32), (.pc, 0x2000#32)], true⟩,
    -- RTD #8
    ⟨[0x4E74#16, 0x0008#16],
      [(.ssp, 0x3FFC#32), (.mem 0x3FFC .l, 0x2000#32)],
      [(.ssp, 0x4008#32), (.pc, 0x2000#32)], true⟩,
    -- RTR
    ⟨[0x4E77#16],
      [(.ssp, 0x3FFA#32), (.mem 0x3FFA .l, 0xFFF50000#32), (.mem 0x3FFE .w, 0x2000#32)],
      [(.ssp, 0x4000#32), (.pc, 0x2000#32), (.sr, 0x2715#32)], true⟩,
    -- NOP
    ⟨[0x4E71#16],
      [(.sr, 0x271F#32)],
      [(.pc, 0x1002#32)], true⟩] = true := by decide +kernel


theorem test_vectors_file48_part1 : vectorsPass
  [
    -- ORI #0x10,CCR
    ⟨[0x003C#16, 0x0010#16],
      [],
      [(.pc, 0x1004#32), (.sr, 0x2710#32)], true⟩,
    -- ANDI #0xEF,CCR
    ⟨[0x023C#16, 0x00EF#16],
      [(.sr, 0x271F#32)],
      [(.pc, 0x1004#32), (.sr, 0x270F#32)], true⟩,
    -- EORI #0x1F,CCR
    ⟨[0x0A3C#16, 0x001F#16],
      [(.sr, 0x2715#32)],
      [(.pc, 0x1004#32), (.sr, 0x270A#32)], true⟩,
    -- MOVE D0,CCR
    ⟨[0x44C0#16],
      [(.d 0, 0xFFFF#32)],
      [(.pc, 0x1002#32), (.sr, 0x271F#32)], true⟩,
    -- MOVE CCR,D0
    ⟨[0x42C0#16],
      [(.d 0, 0xFFFFFFFF#32), (.sr, 0x2715#32)],
      [(.d 0, 0xFFFF0015#32), (.pc, 0x1002#32)], true⟩,
    -- MOVE SR,D0
    ⟨[0x40C0#16],
      [(.d 0, 0xFFFFFFFF#32), (.sr, 0x2715#32)],
      [(.d 0, 0xFFFF2715#32), (.pc, 0x1002#32)], true⟩,
    -- ORI #0x0700,SR
    ⟨[0x007C#16, 0x0700#16],
      [(.sr, 0x2000#32)],
      [(.pc, 0x1004#32), (.sr, 0x2700#32)], true⟩,
    -- ANDI #0xDFFF,SR
    ⟨[0x027C#16, 0xDFFF#16],
      [(.usp, 0x3000#32), (.sr, 0x2704#32)],
      [(.pc, 0x1004#32), (.sr, 0x704#32)], true⟩,
    -- EORI #0x0700,SR
    ⟨[0x0A7C#16, 0x0700#16],
      [],
      [(.pc, 0x1004#32), (.sr, 0x2000#32)], true⟩,
    -- MOVEC D0,VBR
    ⟨[0x4E7B#16, 0x0801#16],
      [(.d 0, 0x10000#32)],
      [(.pc, 0x1004#32), (.vbr, 0x10000#32)], true⟩,
    -- MOVEC VBR,A1
    ⟨[0x4E7A#16, 0x9801#16],
      [(.a 1, 0xFFFFFFFF#32), (.vbr, 0x10000#32)],
      [(.a 1, 0x10000#32), (.pc, 0x1004#32)], true⟩,
    -- MOVE A0,USP
    ⟨[0x4E60#16],
      [(.a 0, 0x3000#32)],
      [(.usp, 0x3000#32), (.pc, 0x1002#32)], true⟩] = true := by decide +kernel


theorem test_vectors_file48_part2 : vectorsPass
  [
    -- MOVE USP,A1
    ⟨[0x4E69#16],
      [(.usp, 0x3000#32)],
      [(.a 1, 0x3000#32), (.pc, 0x1002#32)], true⟩,
    -- RTE
    ⟨[0x4E73#16],
      [(.usp, 0x3000#32), (.ssp, 0x3FF8#32), (.mem 0x3FF8 .l, 0x150000#32), (.mem 0x3FFC .l, 0x20000084#32)],
      [(.ssp, 0x4000#32), (.pc, 0x2000#32), (.sr, 0x15#32)], true⟩,
    -- RTE
    ⟨[0x4E73#16],
      [(.ssp, 0x3FF4#32), (.mem 0x3FF4 .l, 0x27040000#32), (.mem 0x3FF8 .l, 0x2000201C#32), (.mem 0x3FFC .l, 0x1234#32)],
      [(.ssp, 0x4000#32), (.pc, 0x2000#32), (.sr, 0x2704#32)], true⟩,
    -- RESET
    ⟨[0x4E70#16],
      [],
      [(.pc, 0x1002#32)], true⟩,
    -- STOP #0x2000
    ⟨[0x4E72#16, 0x2000#16],
      [(.usp, 0x3000#32), (.sr, 0x0#32), (.mem 0x20 .l, 0x2000#32)],
      [(.ssp, 0x3FF8#32), (.pc, 0x2000#32), (.sr, 0x2000#32), (.mem 0x3FFC .b, 0x10#32), (.mem 0x3FFF .b, 0x20#32)], true⟩] = true := by decide +kernel


theorem test_vectors_file49_part1 : vectorsPass
  [
    -- TRAP #1
    ⟨[0x4E41#16],
      [(.usp, 0x3000#32), (.sr, 0x15#32), (.mem 0x84 .l, 0x2000#32)],
      [(.ssp, 0x3FF8#32), (.pc, 0x2000#32), (.sr, 0x2015#32), (.mem 0x3FF9 .b, 0x15#32), (.mem 0x3FFC .w, 0x1002#32), (.mem 0x3FFF .b, 0x84#32)], true⟩,
    -- TRAPV
    ⟨[0x4E76#16],
      [(.sr, 0x2702#32), (.mem 0x1C .l, 0x2000#32)],
      [(.ssp, 0x3FF4#32), (.pc, 0x2000#32), (.mem 0x3FF4 .w, 0x2702#32), (.mem 0x3FF8 .l, 0x1002201C#32), (.mem 0x3FFE .b, 0x10#32)], true⟩,
    -- TRAPV
    ⟨[0x4E76#16],
      [(.sr, 0x271D#32)],
      [(.pc, 0x1002#32)], true⟩,
    -- TRAPEQ
    ⟨[0x57FC#16],
      [(.sr, 0x2704#32), (.mem 0x1C .l, 0x2000#32)],
      [(.ssp, 0x3FF4#32), (.pc, 0x2000#32), (.mem 0x3FF4 .w, 0x2704#32), (.mem 0x3FF8 .l, 0x1002201C#32), (.mem 0x3FFE .b, 0x10#32)], true⟩,
    -- TRAPEQ
    ⟨[0x57FC#16],
      [],
      [(.pc, 0x1002#32)], true⟩,
    -- TRAPNE.W #0x1234
    ⟨[0x56FA#16, 0x1234#16],
      [(.sr, 0x2704#32)],
      [(.pc, 0x1004#32)], true⟩,
    -- TRAPT.L #1
    ⟨[0x50FB#16, 0x0000#16, 0x0001#16],
      [(.mem 0x1C .l, 0x2000#32)],
      [(.ssp, 0x3FF4#32), (.pc, 0x2000#32), (.mem 0x3FF4 .b, 0x27#32), (.mem 0x3FF8 .l, 0x1006201C#32), (.mem 0x3FFE .b, 0x10#32)], true⟩,
    -- TRAPF
    ⟨[0x51FC#16],
      [],
      [(.pc, 0x1002#32)], true⟩,
    -- CHK.W D1,D0
    ⟨[0x4181#16],
      [(.d 0, 0xFFFF0064#32), (.d 1, 0x64#32)],
      [(.pc, 0x1002#32)], false⟩,
    -- CHK2.B (A0),D1
    ⟨[0x00D0#16, 0x1800#16],
      [(.d 1, 0x10#32), (.a 0, 0x3000#32), (.mem 0x3000 .w, 0x1020#32)],
      [(.pc, 0x1004#32)], false⟩,
    -- CHK2.L (A0),A1
    ⟨[0x04D0#16, 0x9800#16],
      [(.a 0, 0x3000#32), (.a 1, 0x1800#32), (.mem 0x3000 .l, 0x1000#32), (.mem 0x3004 .l, 0x1FFF#32)],
      [(.pc, 0x1004#32)], false⟩,
    -- ILLEGAL
    ⟨[0x4AFC#16],
      [(.usp, 0x3000#32), (.sr, 0x15#32), (.vbr, 0x10000#32), (.mem 0x10010 .l, 0x2000#32)],
      [(.ssp, 0x3FF8#32), (.pc, 0x2000#32), (.sr, 0x2015#32), (.mem 0x3FF9 .b, 0x15#32), (.mem 0x3FFC .b, 0x10#32), (.mem 0x3FFF .b, 0x10#32)], true⟩] = true := by decide +kernel


theorem test_vectors_file49_part2 : vectorsPass
  [
    -- (line A word)
    ⟨[0xA123#16],
      [(.mem 0x28 .l, 0x2000#32)],
      [(.ssp, 0x3FF8#32), (.pc, 0x2000#32), (.mem 0x3FF8 .b, 0x27#32), (.mem 0x3FFC .b, 0x10#32), (.mem 0x3FFF .b, 0x28#32)], true⟩,
    -- (class U word 0x4AFB)
    ⟨[0x4AFB#16],
      [(.mem 0x10 .l, 0x2000#32)],
      [(.ssp, 0x3FF8#32), (.pc, 0x2000#32), (.mem 0x3FF8 .b, 0x27#32), (.mem 0x3FFC .b, 0x10#32), (.mem 0x3FFF .b, 0x10#32)], true⟩,
    -- BGND
    ⟨[0x4AFA#16],
      [(.mem 0x30 .l, 0x3000#32)],
      [(.ssp, 0x3FF4#32), (.pc, 0x3000#32), (.mem 0x3FF4 .b, 0x27#32), (.mem 0x3FF8 .l, 0x10022030#32), (.mem 0x3FFE .b, 0x10#32)], true⟩,
    -- BKPT #3
    ⟨[0x484B#16],
      [],
      [(.pc, 0x1002#32)], true⟩] = true := by decide +kernel

/-- Rows E2, E4 and M16–M18, M21 of spec/95 (exception entry with an odd handler, nesting, MOVES, an unknown code). -/
theorem test_vectors_entry_and_moves : vectorsPass
  [⟨[0x4AFC#16], [(.mem 0x10 .l, 0x2001#32)],
      [(.ssp, 0x3FF8#32), (.mem 0x3FF8 .l, 0x27000000#32), (.mem 0x3FFC .l, 0x10000010#32), (.pc, 0x2001#32)], true⟩,
   ⟨[0x4E42#16], [(.pc, 0x1100#32), (.ssp, 0x3FF8#32), (.mem 0x88 .l, 0x2000#32)],
      [(.ssp, 0x3FF0#32), (.mem 0x3FF0 .l, 0x27000000#32), (.mem 0x3FF4 .l, 0x11020088#32), (.pc, 0x2000#32)], true⟩,
   ⟨[0x0E90#16, 0x1800#16], [(.d 1, 0x11223344#32), (.a 0, 0x2000#32), (.sr, 0x271F#32)],
      [(.mem 0x2000 .l, 0x11223344#32), (.pc, 0x1004#32)], true⟩,
   ⟨[0x0E10#16, 0x9000#16], [(.a 0, 0x2000#32), (.mem 0x2000 .b, 0x80#32)],
      [(.a 1, 0xFFFFFF80#32), (.pc, 0x1004#32)], true⟩,
   ⟨[0x0E58#16, 0x2000#16], [(.a 0, 0x2000#32), (.mem 0x2000 .w, 0x8001#32), (.d 2, 0xFFFFFFFF#32), (.sr, 0x2704#32)],
      [(.d 2, 0xFFFF8001#32), (.a 0, 0x2002#32), (.pc, 0x1004#32)], true⟩,
   ⟨[0x4E7B#16, 0x0002#16], [(.mem 0x10 .l, 0x2000#32)],
      [(.ssp, 0x3FF8#32), (.mem 0x3FF8 .l, 0x27000000#32), (.mem 0x3FFC .l, 0x10000010#32), (.pc, 0x2000#32)],
      true⟩] = true := by decide +kernel

/-- The words of section "refused" of spec/95, but for U8 and U9, which run with a free value (log 13, log 14). -/
def refusedWords : List (List Word × Refusal) :=
  [([0x803C#16, 1#16], .orImmediate), ([0x807A#16, 4#16], .orPcRelative), ([0x8141#16], .orRegisterToRegister),
   ([0x41BC#16, 0x64#16], .chkImmediate), ([0x81FC#16, 2#16], .divsImmediate),
   ([0x4CBA#16, 3#16, 0x10#16], .movemPcRelative), ([0x46C0#16], .moveToSr), ([0x4C41#16, 0x0400#16], .divQuadSameRegister),
   ([0x0E90#16, 0x1801#16], .reservedBits), ([0x4E57#16, 0#16], .linkA7), ([0x4E5F#16], .unlkA7),
   ([0x4E72#16, 0xFFFF#16], .traceBits)]

theorem test_refused_words : (refusedWords.all fun r =>
    match step { vectorStart with mem := putBytes [] 0x1000 (bytesOfWords r.1) } with
    | .refused e => e = r.2
    | _ => false) = true := by decide +kernel

/-- The machine of a row of spec/95 with several contexts: context `i` runs with the given registers, and words stand
at its pc. -/
def contextRun (s : State) (i : CtxId) (c : Ctx) (ws : List Word) : State :=
  { s with cur := i, ctxs := s.ctxs.set i.val { c with run := .ready }, mem := putBytes s.mem c.pc.toNat (bytesOfWords ws) }

/-- What a step gives, if it is a next state. -/
def after (s : State) (p : State → Bool) : Bool :=
  match step s with
  | .next t => p t
  | _ => false

/-- Row M1's Master Context_0 with handlers for TRAPX #2 and vector 0x40. -/
def masterWaiting : State :=
  { State.reset.withCtx { State.reset.ctx with pc := 0x1234#32, ssp := 0x4000#32, sr := 0x2000#16, run := .notReady } with
    mem := putBytes (putBytes [] 0x188 [0#8, 0#8, 0x80#8, 0#8]) 0x100 [0#8, 0#8, 0x30#8, 0#8] }

/-- M1: TRAPX from context 3, Master Context_0 not in Standard Interrupt Mode. -/
theorem test_trapx_unframed :
    after (contextRun masterWaiting 3 { Ctx.absent with pc := 0x5000#32 } [0x4E32#16]) (fun t =>
      t.fcr = 3 && t.cur = 0 && t.ctxs[3].pc = 0x5002#32 && t.ctxs[3].run = .ready && t.ctxs[0].run = .ready &&
      t.ctxs[0].pc = 0x8000#32 && t.ctxs[0].sr = 0x2000#16 && t.ctxs[0].ssp = 0x4000#32) = true := by decide +kernel

/-- M2: the same in Standard Interrupt Mode. -/
theorem test_trapx_framed :
    after (contextRun { masterWaiting with params := { Params.default with stdIntMode := Vector.replicate 5 true } } 3
      { Ctx.absent with pc := 0x5000#32 } [0x4E32#16]) (fun t =>
      t.fcr = 3 && t.cur = 0 && t.ctxs[0].ssp = 0x3FF8#32 && t.ctxs[0].pc = 0x8000#32 &&
      t.readAt 0x3FF8 .l = 0x20000000#32 && t.readAt 0x3FFC .l = 0x12340188#32) = true := by decide +kernel

/-- M4: STOP in Master Context_0 among READY, NOT_READY and HALTED contexts. -/
theorem test_stop_master :
    after { contextRun vectorStart 0 vectorStart.ctx [0x4E72#16, 0x2000#16] with
        ctxs := #v[vectorStart.ctx, { Ctx.absent with run := .ready }, { Ctx.absent with run := .notReady }, Ctx.absent,
          { Ctx.absent with run := .ready }] } (fun t =>
      t.cpu = .stopped && t.ctxs[0].sr = 0x2000#16 && t.ctxs[0].pc = 0x1004#32 &&
      t.ctxs.toList.map Ctx.run = [.notReady, .notReady, .notReady, .halted, .notReady]) = true := by decide +kernel

/-- M9 and M12: LPSTOP in Master Context_0; SLEEP in context 3, after which Master Context_0 runs. -/
theorem test_lpstop_and_sleep :
    after (contextRun vectorStart 0 vectorStart.ctx [0xF800#16, 0x01C0#16, 0x2700#16]) (fun t =>
      t.cpu = .lpStopped && t.ctx.sr = 0x2700#16 && t.ctx.pc = 0x1006#32 && t.ctx.run = .ready) = true ∧
    after (contextRun vectorStart 3 { Ctx.absent with pc := 0x5000#32, sr := 0x2000#16 } [0x4E78#16]) (fun t =>
      t.cur = 0 && t.ctxs[3].pc = 0x5002#32 && t.ctxs[3].run = .notReady && t.ctxs[3].sr = 0x2000#16) = true := by
  decide +kernel

/-- M15: BKPT in JTAG break-point mode halts its context. -/
theorem test_bkpt_jtag :
    after (contextRun { vectorStart with params := { Params.default with dcrBkpt := true, jtagBkptMode := true } } 1
      { Ctx.absent with pc := 0x5000#32 } [0x484B#16]) (fun t =>
      t.ctxs[1].jtagHalt && t.ctxs[1].run = .halted && t.ctxs[1].pc = 0x5002#32 && t.cur = 0) = true := by decide +kernel

/-- M7 and M8: an interrupt of level 3 wakes a STOPPED machine whose mask is 0, and not one whose mask is 3. -/
theorem test_interrupt_wakes_stopped :
    let s : Word → State := fun sr =>
      { masterWaiting with cpu := .stopped, irqs := [⟨0, 3#3, 0x40#8⟩]
                           params := { Params.default with stdIntMode := Vector.replicate 5 true }
                           ctxs := masterWaiting.ctxs.set 0 { masterWaiting.ctxs[0] with pc := 0x1004#32, sr := sr } }
    after (s 0x2000#16) (fun t => t.cpu = .running && t.ctx.run = .ready && t.ctx.ssp = 0x3FF8#32 && t.ctx.sr = 0x2300#16 &&
      t.ctx.pc = 0x3000#32 && t.readAt 0x3FF8 .l = 0x20000000#32 && t.readAt 0x3FFC .l = 0x10040100#32 &&
      t.irqs = []) = true ∧
    after (s 0x2300#16) (fun t => t.cpu = .stopped && t.ctx.pc = 0x1004#32 && t.irqs = [⟨0, 3#3, 0x40#8⟩]) = true := by
  decide +kernel

/-- E1: a TRAP with an odd SSP is a double fault, and the next step a fault. -/
theorem test_double_fault :
    after (contextRun vectorStart 0 { vectorStart.ctx with ssp := 0x3FFF#32 } [0x4E40#16]) (fun t =>
      t.mark = .doubleFault && (step t matches .fault .doubleFault)) = true := by decide +kernel

/-- An odd data address: the mark under the default policy, and E3's six-word frame under FAULT_POLICY = vectored. -/
theorem test_address_error :
    let s : FaultPolicy → State := fun p =>
      contextRun { vectorStart with params := { Params.default with faultPolicy := p }
                                    mem := putBytes [] 0xC [0#8, 0#8, 0x22#8, 0#8] } 0
        { vectorStart.ctx with a := vectorStart.ctx.a.set 0 0x2001#32 } [0x3010#16]
    after (s .terminal) (fun t => t.mark = .faulted .address 0x2001#32 0x1000#32 && t.ctx.pc = 0x1000#32) = true ∧
    after (s .vectored) (fun t => t.ctx.ssp = 0x3FF4#32 && t.ctx.pc = 0x2200#32 && t.readAt 0x3FF4 .l = 0x27000000#32 &&
      t.readAt 0x3FF8 .l = 0x1000200C#32 && t.readAt 0x3FFC .l = 0x00002001#32) = true := by decide +kernel

/-- A BSET whose store to rom raises BusError: Z is set before the store (R322), the byte and the pc stay. -/
theorem test_bset_fault_keeps_flag :
    let s := contextRun { vectorStart with params := { Params.default with
                            memMap := [⟨0x2000, 1, .rom⟩], romWrite := .busError, faultPolicy := .terminal } } 0
      { vectorStart.ctx with a := vectorStart.ctx.a.set 0 0x2000#32 } [0x08D0#16, 3#16]
    after s (fun t => t.mark = .faulted .bus 0x2000#32 0x1000#32 && t.ctx.sr = 0x2704#16 && t.ctx.pc = 0x1000#32 &&
      t.byteAt 0x2000 = 0#8) = true := by decide +kernel

/-- BSR.W whose push overwrites its own displacement, under PREFETCH_HAZARD = coherent: SSP 0x1006 puts the return
address 0x00001004 at 0x1002, so the displacement fetched after the push is 0 and the target 0x1002 (R11, R77). -/
theorem test_bsr_over_its_own_words :
    after (contextRun { vectorStart with params := { Params.default with prefetch := .coherent } } 0
      { vectorStart.ctx with ssp := 0x1006#32 } [0x6100#16, 0x0100#16]) (fun t =>
      t.ctx.ssp = 0x1002#32 && t.readAt 0x1002 .l = 0x1004#32 && t.ctx.pc = 0x1002#32) = true := by decide +kernel

/-- MOVEC to a code that maps FCR keeps the low three bits (R44, R390), and one above 4 leaves some context number. -/
theorem test_movec_fcr :
    let s : Long → State := fun v => contextRun { vectorStart with extRegs := [(0x123#12, .fcr)], fcr := 2 } 0
      { vectorStart.ctx with d := vectorStart.ctx.d.set 0 v } [0x4E7B#16, 0x0123#16]
    after (s 0xFFFFFFFC#32) (fun t => t.fcr = 4 && t.draws = 0 && t.ctx.pc = 0x1004#32) = true ∧
    after (s 7#32) (fun t => t.draws = 1 && t.ctx.pc = 0x1004#32) = true := by decide +kernel

/-- SR under a layout that swaps T1 with S and I2 with I0: MOVE from SR stores it there, MOVE to it by ORI reads it there. -/
theorem test_sr_layout :
    let l : SrLayout := { t1 := 5, t0 := 6, s := 7, i2 := 0, i1 := 1, i0 := 2 }
    srPack l 0x2401#16 = 0x8101#16 ∧ srUnpack l 0x8101#16 = 0x2401#16 ∧ l.distinct = true := by decide

/-- With 24 address bits a store at 0xFF002000 is read at 0x2000 (R60; log 5). -/
theorem test_address_bits :
    after (contextRun { vectorStart with params := { Params.default with addrBits := 24 } } 0
      { vectorStart.ctx with a := vectorStart.ctx.a.set 0 0xFF002000#32, d := vectorStart.ctx.d.set 0 0x12345678#32 }
      [0x2080#16]) (fun t => t.readAt 0x2000 .l = 0x12345678#32 && t.mem.length ≤ 6) = true := by decide +kernel

/-- U8 and U9 under the advice to refuse (R516). -/
theorem test_undefined_refused :
    let s : List Word → State := fun ws =>
      contextRun { vectorStart with params := { Params.default with undefined := .refuse } } 0
        { vectorStart.ctx with a := vectorStart.ctx.a.set 0 0x2000#32 } ws
    (step (s [0x2100#16 + 8#16]) matches .refused .storesItself) = true ∧
    (step (s [0x4C01#16, 0x0400#16]) matches .refused .productRegister) = true := by decide +kernel

/-- CMP2.B and CHK2.B with the bounds 20 and 10 are refused (R516, U13); with 10 and 20 CMP2 completes. -/
theorem test_unordered_bounds :
    let s : Word → List Byte → State := fun w bounds =>
      let t := contextRun vectorStart 0 { vectorStart.ctx with a := vectorStart.ctx.a.set 0 0x2000#32 } [0x00D0#16, w]
      { t with mem := putBytes t.mem 0x2000 bounds }
    (step (s 0x0000#16 [0x20#8, 0x10#8]) matches .refused .unorderedBounds) = true ∧
    (step (s 0x0800#16 [0x20#8, 0x10#8]) matches .refused .unorderedBounds) = true ∧
    (step (s 0x0000#16 [0x10#8, 0x20#8]) matches .next _) = true := by decide +kernel

/-- A write by a device reaches ram only (R78, R517). -/
theorem test_bus_write :
    let s := { vectorStart with params := { Params.default with memMap := [⟨0x9000, 1, .device 0⟩, ⟨0x2000, 1, .rom⟩] } }
    (applyEvent s (.busWrite 0x3000#32 7#8)).byteAt 0x3000 = 7#8 ∧ applyEvent s (.busWrite 0x2000#32 7#8) = s := by
  decide +kernel

/-- Memory after reset is in canonical form. -/
theorem test_reset_memory_wf : State.reset.mem.wf := by decide

/-- `withFetchWord` makes the next step run the given word. -/
theorem test_first_step :
    after (State.reset.withFetchWord 16 0x7605) (fun t => t.ctx.getD 3#3 = 5#32) = true := by decide +kernel

/-! ## Witnesses: the hypotheses of each obligation are met together, clause by clause -/

/-- The outcome is a next state. -/
def completes (x : Step) : Bool := x matches .next _

theorem completes_next {x : Step} (h : completes x = true) : ∃ t, x = .next t := by
  cases x with
  | next t => exact ⟨t, rfl⟩
  | fault f => cases h
  | refused r => cases h

/-- A machine in supervisor state, with pointers into memory, data at 0x2000 and a program area at 0x1000. -/
def supervisor : State :=
  (State.reset.withCtx { State.reset.ctx with
    d := #v[0x11223344#32, 5#32, 0xFFFF8000#32, 0#32, 0x0000007F#32, 0x10#32, 0x99#32, 0x80000000#32]
    a := #v[0x2000#32, 0x2010#32, 0x2020#32, 0x2030#32, 0x2040#32, 0x2050#32, 0x2060#32]
    usp := 0x3000#32, ssp := 0x4000#32, pc := 0x1000#32, sr := 0x2711#16 })

/-- The same in user state. -/
def user : State := supervisor.withSr 0x0011#16

/-- A machine whose memory holds the given bytes at an address. -/
def holding (s : State) (a : Nat) (bs : List Byte) : State := { s with mem := putBytes s.mem a bs }

/-- The same machine with other parameters. -/
def configured (s : State) (f : Params → Params) : State := { s with params := f s.params }

/-- A machine with a pending request for the running context. -/
def requested (s : State) (level : BitVec 3) : State := { s with irqs := [⟨0, level, 0x40#8⟩] }

/-- NOP at the pc; in the second state with an event and a masked request. -/
theorem witness_StepRunsDecoded :
    let s := holding supervisor 0x1000 [0x4E#8, 0x71#8]
    let t := requested { s with events := [[.dropIrq ⟨0, 7#3, 0#8⟩]] } 7#3
    ((deliver t).mark = .none ∧ canRun (wake (deliver t)) = true ∧ pickIrq (wake (deliver t)) = none ∧
      fetchCheck (wake (deliver t)) (wake (deliver t)).ctx.pc = none ∧
      fetchDecode (wake (deliver t)) = .instr .nop) ∧
    s.mark = .none ∧ s.events = [] ∧ s.irqs = [] ∧ canRun s = true ∧ fetchCheck s s.ctx.pc = none ∧
      fetchDecode s = .instr .nop := by decide +kernel

/-- An instruction of three words, and a machine that holds them at the end of the address space. -/
def threeWords : Instr := .movemLoadL 0xFFFF#16 (.idx 7#3 (.brief ⟨15#4, true, 3#2⟩ 0xFF#8))
def holdingThree : State := (holding supervisor 0xFFFFFFFA (bytesOfWords (encode threeWords))).withPc 0xFFFFFFFA#32

theorem witness_DecodeOfEncode :
    threeWords.ok = true ∧ (encode threeWords).length = 3 ∧
    (List.range 3).map (fun k => holdingThree.codeWord (holdingThree.ctx.pc + BitVec.ofNat 32 (2 * k))) =
      encode threeWords := by decide +kernel

theorem witness_DecodeGivesWellFormed : decode 0x33FC#16 [0xFFFF#16, 0x0001#16, 0x0000#16] =
    .instr (.moveW (.imm 0xFFFF#32) (.absL 0x10000#32)) := by decide

/-- A machine about to store, with stale bytes at both ends of memory. -/
def aboutToStore : State := { holding supervisor 0x1000 [0x20#8, 0x81#8] with stale := [0, 0xFFFFFFFF] }

theorem witness_StepKeepsInv_inv : aboutToStore.Inv :=
  ⟨by decide +kernel, by decide +kernel, by decide +kernel, by decide +kernel⟩

theorem witness_StepKeepsInv_completes : completes (step aboutToStore) = true := by decide +kernel

theorem witness_StepKeepsInv : aboutToStore.Inv ∧ ∃ t, step aboutToStore = .next t :=
  ⟨witness_StepKeepsInv_inv, completes_next witness_StepKeepsInv_completes⟩

/-- The two reset vectors readable; context 1 with CTX_INIT and context 2 without. -/
theorem witness_ResetLoadsVectors :
    let s := { supervisor with resetCtx := #v[none, some Ctx.absent, none, none, none]
                               extRegs := [(1#12, .plain 0#32), (2#12, .fcr), (3#12, .plain 9#32)] }
    let t := { s with resetCtx := #v[some Ctx.afterReset, some Ctx.absent, none, none, none] }
    s.resetCtx[0] = none ∧ s.resetCtx[2] = none ∧ s.resetCtx[1] = some Ctx.absent ∧
    t.resetCtx[0] = some Ctx.afterReset ∧ s.extRegs[1]? = some (2#12, ExtReg.fcr) ∧
    s.extRegs[2]? = some (3#12, ExtReg.plain 9#32) ∧
    readable s ((s.params.vec.resetSsp ++ 0#2 : BitVec 10).setWidth 32) .l = true ∧
    readable s ((s.params.vec.resetPc ++ 0#2 : BitVec 10).setWidth 32) .l = true := by decide +kernel

/-- An ordinary instruction, and STOP, both completing. -/
theorem witness_OtherContextsUntouched :
    (∀ v, Instr.nop ≠ .trapx v) ∧ (∀ v, Instr.stop 0x2000#16 ≠ .trapx v) ∧ (4 : Fin 5) ≠ supervisor.cur ∧
    completes (exec .nop supervisor) = true ∧ completes (exec (.stop 0x2000#16) supervisor) = true :=
  ⟨fun _ => Instr.noConfusion, fun _ => Instr.noConfusion, by decide, by decide +kernel, by decide +kernel⟩

/-- In user mode an instruction that stays there, and one that traps. -/
theorem witness_UserModeConfined :
    srS user.ctx.sr = false ∧ completes (exec (.oriToCcr 0xFF#8) user) = true ∧ completes (exec (.stop 0#16) user) = true :=
  by decide +kernel

/-- A sleeping machine with and without events. -/
theorem witness_LpStoppedUntilReset :
    let s := { supervisor with cpu := .lpStopped }
    let t := { s with events := [[.irq ⟨0, 7#3, 0#8⟩, .markReady 4], [.reset]] }
    t.cpu = .lpStopped ∧ t.mark = .none ∧ t.events = [.irq ⟨0, 7#3, 0#8⟩, .markReady 4] :: [[.reset]] ∧
    .reset ∉ [HostEvent.irq ⟨0, 7#3, 0#8⟩, .markReady 4] ∧ s.cpu = .lpStopped ∧ s.mark = .none ∧ s.events = [] := by
  decide

/-- Both marks; and for each access of a six-word and of a four-word entry a memory map that makes it the first to
fault: unbacked bytes at each push, and at the vector; and an odd stack pointer. -/
theorem witness_MarksStop :
    let s := { supervisor with mark := .faulted .bus 0xFFFFFFFF#32 0#32 }
    let d := { supervisor with mark := .doubleFault }
    let o := supervisor.withCtx { supervisor.ctx with ssp := 0x4001#32 }
    let hole : Nat → State := fun a => configured supervisor fun p => { p with memMap := [⟨a, 2, .unmapped⟩] }
    let pushes : Bool → List (Long × Size) := fun six =>
      let top := if six then 0x3FFC#32 else 0x4000#32
      (if six then [(top, .l)] else []) ++ [(top - 2#32, .w), (top - 6#32, .l), (top - 8#32, .w)]
    (deliver s).mark = .faulted .bus 0xFFFFFFFF#32 0#32 ∧ (deliver d).mark = .doubleFault ∧
    HostEvent.markReady 0 ≠ .reset ∧
    (∀ six ∈ [true, false], ∀ n < (pushes six).length, ∀ p ∈ (pushes six)[n]?,
      (∀ q ∈ (pushes six).take n, writable (hole p.1.toNat) q.1 q.2 = true) ∧
      writeCheck (hole p.1.toNat).params p.1 p.2 = some (.exc (.busError p.1))) ∧
    (∀ six ∈ [true, false], (∀ q ∈ pushes six, writable (hole 0x10) q.1 q.2 = true) ∧
      accessCheck (hole 0x10).params (vectorAddr (hole 0x10) 4#8) .l = some (.exc (.busError 0x10#32))) ∧
    writeCheck o.params (o.ctx.ssp - 2#32) .w = some (.exc (.addressError 0x3FFF#32)) := by decide +kernel

/-- A frame that begins where the vector ends, and one that ends where the vector begins; the lowest stack pointer; and
the fewest address bits that hold a frame and a vector. -/
def frameStates : List (State × Byte × Nat × Bool) :=
  [(supervisor.withCtx { supervisor.ctx with vbr := 0x4000#32 }, 0#8, 8, false),
   (supervisor.withCtx { supervisor.ctx with ssp := 12#32, vbr := 0x100#32 }, 255#8, 12, true),
   (supervisor.withCtx { supervisor.ctx with ssp := 0x400C#32, vbr := 0x3FEC#32 }, 4#8, 12, true),
   (configured (supervisor.withCtx { supervisor.ctx with ssp := 0x4010#32 }) fun p => { p with addrBits := 4 }, 0#8, 12,
    true)]

theorem witness_ExceptionFrame : ∀ r ∈ frameStates,
    let s := r.1
    let sp := s.ctx.ssp - BitVec.ofNat 32 r.2.2.1
    entryReady s r.2.1 r.2.2.2 = true ∧ r.2.2.1 ≤ s.ctx.ssp.toNat ∧ noRom s sp r.2.2.1 = true ∧
    r.2.2.1 ≤ 2 ^ s.params.addrBits ∧
    ∀ i < 4, ∀ j < r.2.2.1, busAddr s.params ((vectorAddr s r.2.1).toNat + i) ≠ busAddr s.params (sp.toNat + j) := by
  decide +kernel

/-- From user state, and with the highest vector. -/
theorem witness_TrapThenRte : ∀ s ∈ [supervisor, user],
    s.ctx.sr &&& srImplemented = s.ctx.sr ∧ s.params.srLayout.distinct = true ∧ srWritable s s.srWord = true ∧
    entryReady s (2#4 ++ 15#4) false = true ∧ 8 ≤ 2 ^ s.params.addrBits ∧
    8 ≤ s.ctx.ssp.toNat ∧ noRom s (s.ctx.ssp - 8#32) 8 = true := by decide +kernel

theorem witness_PrivilegedFormsTrap :
    srS user.ctx.sr = false ∧ entryReady user user.params.vec.privilege false = true ∧ fetchable user 0 1 = true := by
  decide +kernel

/-- A request one above the mask; the same in Standard Interrupt Mode; level 7 at mask 7, with and without IRQ_NMI7. -/
def aboveMask : State := requested (supervisor.withSr 0x2300#16) 4#3
def aboveMaskStd : State := configured aboveMask fun p => { p with stdIntMode := Vector.replicate 5 true }
def atMask : State := requested supervisor 7#3
def atMaskNmi : State := configured atMask fun p => { p with irqNmi7 := true }
/-- The state in which the request has been taken off the list. -/
def accepting (s : State) : State := { wake s with irqs := (wake s).irqs.filter fun q => q ≠ ⟨0, 4#3, 0x40#8⟩ }

theorem witness_InterruptRule_framed :
    aboveMaskStd.mark = .none ∧ aboveMaskStd.events = [] ∧ canRun (wake aboveMaskStd) = true ∧
    pickIrq (wake aboveMaskStd) = some ⟨0, 4#3, 0x40#8⟩ ∧
    aboveMaskStd.params.stdIntMode[(wake aboveMaskStd).cur.val] = true ∧
    entryReady (accepting aboveMaskStd) 0x40#8 false = true := by decide +kernel

theorem witness_InterruptRule_unframed :
    aboveMask.mark = .none ∧ aboveMask.events = [] ∧ canRun (wake aboveMask) = true ∧
    pickIrq (wake aboveMask) = some ⟨0, 4#3, 0x40#8⟩ ∧
    aboveMask.params.stdIntMode[(wake aboveMask).cur.val] = false ∧
    readable (accepting aboveMask) (vectorAddr (accepting aboveMask) 0x40#8) .l = true := by decide +kernel

theorem witness_InterruptRule_nmi :
    canRun (wake atMaskNmi) = true ∧ pickIrq (wake atMaskNmi) = some ⟨0, 7#3, 0x40#8⟩ := by decide +kernel

/-- A STOPPED machine in which the request also wakes a NOT_READY context, and an LPSTOPPED one. -/
def asleep : State :=
  { aboveMask with cpu := .stopped, ctxs := aboveMask.ctxs.set 0 { aboveMask.ctx with run := .notReady } }

theorem witness_InterruptRule_wakes :
    asleep.cpu ≠ .lpStopped ∧ (∃ r ∈ asleep.irqs, (srMask asleep.ctxs[r.ctx.val].sr).toNat < r.level.toNat ∧
      asleep.ctxs[r.ctx.val].run = .notReady) ∧
    (∀ r ∈ atMask.irqs, ¬ ((srMask atMask.ctxs[r.ctx.val].sr).toNat < r.level.toNat ∨
      (atMask.params.irqNmi7 = true ∧ r.level = 7#3))) ∧ atMask.cpu ≠ .lpStopped ∧
    asleep.ctxs[1].run ≠ .notReady ∧ ({ asleep with cpu := .lpStopped } : State).cpu = .lpStopped := by decide +kernel

theorem witness_InterruptRule_masked :
    atMask.mark = .none ∧ atMask.events = [] ∧ ∀ r ∈ atMask.irqs,
      (srMask atMask.ctxs[r.ctx.val].sr).toNat ≥ r.level.toNat ∧ (atMask.params.irqNmi7 = false ∨ r.level ≠ 7#3) := by
  decide +kernel

/-- An odd address; the last bytes of the address space; an odd address under the split policy. -/
theorem witness_MisalignedAccess :
    let s := supervisor
    let t := configured s fun p => { p with misalign := .split }
    ((1#32 : Long).getLsbD 0 = true ∧ s.params.misalign = .fault) ∧
    (∀ r ∈ [(s, 0xFFFFFFFF#32, Size.b), (s, 0xFFFFFFFE#32, .w), (s, 0xFFFFFFFC#32, .l), (t, 0xFFFFFFFB#32, .l)],
      r.2.1.toNat + r.2.2.bytes ≤ 2 ^ 32 ∧ touchesUnmapped r.1.params r.2.1.toNat r.2.2.bytes = false ∧
      touchesDevice r.1.params r.2.1.toNat r.2.2.bytes = false ∧ touchesRom r.1.params r.2.1.toNat r.2.2.bytes = false ∧
      (r.2.2 = .b ∨ r.2.1.getLsbD 0 = false ∨ r.1.params.misalign = .split)) := by decide +kernel

theorem witness_ReadAfterWrite :
    Size.l.bytes ≤ 2 ^ supervisor.params.addrBits ∧ noRom supervisor 0xFFFFFFFC#32 4 = true ∧ writable supervisor 0xFFFFFFFC#32 .l = true ∧
    noRom supervisor 0#32 1 = true ∧ writable supervisor 0#32 .b = true := by decide +kernel

/-- Each byte of the operation word, and of the second extension word of an operand, stored to, unbacked and in a device
region; an odd pc; and the fetch after a NOP. -/
theorem witness_StaleFetchRefused :
    let at_ : Nat → RegionKind → State := fun a k => configured supervisor fun p => { p with memMap := [⟨a, 1, k⟩] }
    (supervisor.mark = .none ∧ supervisor.events = [] ∧ supervisor.irqs = [] ∧ canRun supervisor = true ∧
      supervisor.ctx.pc.getLsbD 0 = false ∧ touchesUnmapped supervisor.params 0x1000 2 = false ∧
      touchesDevice supervisor.params 0x1000 2 = false ∧ supervisor.params.prefetch = .refuse) ∧
    (∀ b ∈ [0x1000, 0x1001], let s := { supervisor with stale := [b] }
      (busAddr s.params s.ctx.pc.toNat ∈ s.stale ∨ busAddr s.params (s.ctx.pc.toNat + 1) ∈ s.stale) ∧
      touchesUnmapped (at_ b .unmapped).params 0x1000 2 = true ∧ touchesDevice (at_ b (.device 0)).params 0x1000 2 = true) ∧
    (canRun (supervisor.withPc 0x1001#32) = true ∧ (supervisor.withPc 0x1001#32).ctx.pc.getLsbD 0 = true ∧
      (extAddr (supervisor.withPc 0x1001#32).ctx.pc 0).getLsbD 0 = true) ∧
    (∀ b ∈ [0x1004, 0x1005], let s := { supervisor with stale := [b] }
      1 < EA.extWords .l (.absL 0#32) ∧ fetchable s 0 1 = true ∧ extAddr s.ctx.pc 1 = 0x1004#32 ∧
      (busAddr s.params 0x1004 ∈ s.stale ∨ busAddr s.params (0x1004 + 1) ∈ s.stale) ∧
      fetchable (at_ b .unmapped) 0 1 = true ∧ touchesUnmapped (at_ b .unmapped).params 0x1004 2 = true ∧
      fetchable (at_ b (.device 0)) 0 1 = true ∧ touchesDevice (at_ b (.device 0)).params 0x1004 2 = true) ∧
    (untraced supervisor = true ∧ (0xFFFFFFFE#32 : Long).getLsbD 0 = false ∧
      touchesUnmapped supervisor.params 0xFFFFFFFE 2 = false ∧ touchesDevice supervisor.params 0xFFFFFFFE 2 = false) ∧
    completes (exec .nop supervisor) = true :=
  by decide +kernel

/-- Operands at odd addresses, in an unbacked byte, and in rom whose writes raise BusError; both fault policies. -/
theorem witness_AccessFaults :
    let odd := supervisor.withCtx { supervisor.ctx with
      a := #v[0x2001#32, 0x2011#32, 0#32, 0#32, 0#32, 0#32, 0#32], ssp := 0x4001#32 }
    let rom := configured supervisor fun p => { p with memMap := [⟨0x1FF0, 0x20, .rom⟩], romWrite := .busError }
    let gone := configured supervisor fun p => { p with memMap := [⟨0x1FF0, 0x20, .unmapped⟩] }
    (∀ sz ∈ [Size.w, .l], ∀ ea ∈ [EA.ind 0#3, .postinc 0#3], located odd ea sz 0 = true ∧
      (placeOf odd ea sz 0).loc = .mem 0x2001#32 ∧
      accessCheck odd.params 0x2001#32 sz = some (.exc (MemFault.exc .address 0x2001#32)) ∧
      writeCheck odd.params 0x2001#32 sz = some (.exc (MemFault.exc .address 0x2001#32))) ∧
    (∀ sz ∈ [Size.b, .w, .l], located rom (.ind 0#3) sz 0 = true ∧ (placeOf rom (.ind 0#3) sz 0).loc = .mem 0x2000#32 ∧
      accessCheck rom.params 0x2000#32 sz = none ∧
      writeCheck rom.params 0x2000#32 sz = some (.exc (MemFault.exc .bus 0x2000#32)) ∧
      accessCheck gone.params 0x2000#32 sz = some (.exc (MemFault.exc .bus 0x2000#32))) ∧
    (let t := rom.bump (placeOf rom (.postinc 1#3) .l 0)
     sourceReady rom (.postinc 1#3) .l 0 = true ∧ storesItself (.postinc 1#3) (.ind 0#3) = false ∧
      located t (.ind 0#3) .l 0 = true ∧ (placeOf t (.ind 0#3) .l 0).loc = .mem 0x2000#32) ∧
    (writeCheck odd.params (odd.ctx.sp - 4#32) .l = some (.exc (MemFault.exc .address 0x3FFD#32)) ∧
      addressReady odd (.ind 0#3) 0 = true ∧
      accessCheck odd.params odd.ctx.sp .l = some (.exc (MemFault.exc .address 0x4001#32)) ∧
      accessCheck odd.params odd.ctx.sp .w = some (.exc (MemFault.exc .address 0x4001#32)) ∧
      accessCheck odd.params (odd.ctx.getA 1#3) .l = some (.exc (MemFault.exc .address 0x2011#32))) ∧
    (let u := configured supervisor fun p => { p with memMap := [⟨0x4002, 1, .unmapped⟩] }
     readable u u.ctx.sp .w = true ∧
      accessCheck u.params (u.ctx.sp + 2#32) .l = some (.exc (MemFault.exc .bus 0x4002#32))) ∧
    supervisor.params.faultPolicy = .terminal ∧
    (let v := configured supervisor fun p => { p with faultPolicy := .vectored }
     v.params.faultPolicy = .vectored ∧ entryReady v 2#8 true = true ∧ entryReady v 3#8 true = true) := by decide +kernel

theorem witness_ShiftClosedForms :
    trunc .b 0xFF#32 = 0xFF#32 ∧ trunc .w 0x8000#32 = 0x8000#32 ∧ trunc .l 0xFFFFFFFF#32 = 0xFFFFFFFF#32 ∧ 63 ≤ 63 ∧
    (0 : Nat) ≤ 63 := by decide

theorem witness_RotateClosedForms : trunc .b 0xFF#32 = 0xFF#32 ∧ 7 < Size.b.bits ∧ 8 ≤ Size.b.bits := by decide

/-- The parts of `BoundsForms`: ordered bounds in each reading, bounds in neither, a value on the bound, reserved bits. -/
theorem witness_BoundsForms :
    let s := holding supervisor 0x2000 [0x10#8, 0x10#8, 0xFF#8, 0x01#8]
    (untraced s = true ∧ fetchable s 0 1 = true ∧ (1#11 : BitVec 11) ≠ 0#11) ∧
    (∀ sz ∈ [Size.b, .w, .l], addressReady s (.ind 0#3) 1 = true ∧ readable s (addrOf s (.ind 0#3) 1) sz = true ∧
      readable s (addrOf s (.ind 0#3) 1 + BitVec.ofNat 32 sz.bytes) sz = true) ∧
    (unsignedOf .b 0x10#32 ≤ unsignedOf .b 0x10#32 ∧ signedOf .b 0xFF#32 ≤ signedOf .b 0xFF#32) ∧
    (∃ lb ub : Long, ¬ (unsignedOf .b lb ≤ unsignedOf .b ub ∨ signedOf .b lb ≤ signedOf .b ub)) ∧
    boundsOut .b 0x10#32 0x10#32 0x20#32 = false ∧ boundsOut .b 0x21#32 0x10#32 0x20#32 = true ∧
    entryReady s 6#8 true = true :=
  ⟨by decide +kernel, by decide +kernel, by decide +kernel, ⟨0x20#32, 0x10#32, by decide⟩, by decide, by decide, by decide +kernel⟩

/-- Every addressing mode of a source operand at once: register, memory with both updates, A7, PC-relative, immediate. -/
theorem witness_AluToRegister : ∀ sz ∈ [Size.b, .w, .l],
    ∀ ea ∈ [EA.dn 7#3, .an 6#3, .ind 0#3, .postinc 7#3, .predec 7#3, .disp 1#3 0xFFF0#16,
      .idx 2#3 (.brief ⟨1#4, false, 1#2⟩ 2#8), .idx 2#3 (.full ⟨1#4, true, 1#2⟩ false false (.long 2#32)), .absW 0xFFFC#16,
      .absL 0xFFFFFFFC#32, .pcDisp 0#16, .pcIdx (.full ⟨1#4, true, 1#2⟩ true true (.word 4#16)), .imm 0#32],
    untraced supervisor = true ∧ sourceReady supervisor ea sz 0 = true := by decide +kernel

/-- Every alterable mode, at the word after no, one and two immediate words. -/
theorem witness_ModifyForms : ∀ sz ∈ [Size.b, .w, .l], ∀ n ∈ [0, 1, 2],
    ∀ ea ∈ [EA.dn 7#3, .ind 0#3, .postinc 7#3, .predec 7#3, .disp 1#3 0xFFF0#16, .idx 2#3 (.brief ⟨1#4, false, 1#2⟩ 2#8),
      .absW 0xFFFC#16, .absL 0xFFFFFFFC#32],
    untraced supervisor = true ∧ fetchable supervisor 0 n = true ∧ modifyReady supervisor ea sz n = true := by
  decide +kernel

theorem witness_WriteOnlyForms : srS supervisor.ctx.sr = true ∧ ∀ sz ∈ [Size.b, .w, .l],
    ∀ ea ∈ [EA.dn 0#3, .postinc 7#3, .absL 0xFFFFFFFC#32],
    untraced supervisor = true ∧ targetReady supervisor ea sz 0 = true := by decide +kernel

/-- Memory to memory through one register, and a register stored through its own update. -/
theorem witness_MoveForms :
    let p := placeOf supervisor (.postinc 0#3) .l 0
    let t := supervisor.bump p
    (untraced supervisor = true ∧ sourceReady supervisor (.postinc 0#3) .l 0 = true ∧
      targetReady t (.predec 0#3) .l 0 = true ∧ storesItself (.postinc 0#3) (.predec 0#3) = false) ∧
    sourceReady supervisor (.an 7#3) .l 0 = true ∧ targetReady supervisor (.predec 7#3) .l 0 = true ∧
    storesItself (.an 7#3) (.predec 7#3) = true ∧ supervisor.params.undefined = .free ∧
    (configured supervisor fun p => { p with undefined := .refuse }).params.undefined = .refuse := by decide +kernel

theorem witness_RegisterForms :
    untraced supervisor = true ∧ sourceReady supervisor (.postinc 7#3) .w 0 = true ∧
    sourceReady supervisor (.imm 0xFFFF#32) .l 0 = true ∧ addressReady supervisor (.disp 7#3 0x8000#16) 0 = true := by
  decide +kernel

theorem witness_CompareForms :
    untraced supervisor = true ∧ (∀ sz ∈ [Size.b, .w, .l], sourceReady supervisor (.predec 7#3) sz 0 = true ∧
      sourceReady supervisor (.pcDisp 0#16) sz 2 = true ∧ fetchable supervisor 0 2 = true ∧
      sourceReady supervisor (.postinc 7#3) sz 0 = true ∧
      sourceReady (supervisor.bump (placeOf supervisor (.postinc 7#3) sz 0)) (.postinc 7#3) sz 0 = true) := by
  decide +kernel

theorem witness_ExtendedForms : untraced supervisor = true ∧ ∀ sz ∈ [Size.b, .w, .l],
    sourceReady supervisor (.predec 7#3) sz 0 = true ∧
    modifyReady (supervisor.bump (placeOf supervisor (.predec 7#3) sz 0)) (.predec 7#3) sz 0 = true := by
  decide +kernel

/-- Digits 99 at the top of their range, and a nibble A just outside; in registers and in memory. -/
theorem witness_DecimalForms :
    let digits : Long → Bool := fun v => decide ((v.extractLsb' 4 4).toNat ≤ 9 ∧ (v.extractLsb' 0 4).toNat ≤ 9)
    let s := holding supervisor 0x1FFE [0x99#8, 0x00#8, 0x9A#8]
    let p := placeOf s (.predec 0#3) .b 0
    let t := s.bump p
    (untraced s = true ∧ digits (trunc .b (s.ctx.getD 6#3)) = true ∧ digits (trunc .b (s.ctx.getD 5#3)) = true) ∧
    (sourceReady s (.predec 0#3) .b 0 = true ∧ modifyReady t (.predec 0#3) .b 0 = true ∧
      digits (valueAt s .b p.loc) = true ∧ digits (valueAt t .b (placeOf t (.predec 0#3) .b 0).loc) = true) ∧
    (modifyReady s (.predec 0#3) .b 0 = true ∧ digits (valueAt s .b p.loc) = true) ∧
    (let p' := placeOf s (.predec 1#3) .b 0
     sourceReady s (.predec 1#3) .b 0 = true ∧ modifyReady (s.bump p') (.predec 0#3) .b 0 = true ∧
     let r := holding s 0x200F [0xA0#8]
     ¬ (digits (valueAt r .b p'.loc) = true ∧ digits (valueAt r .b (placeOf (r.bump p') (.predec 0#3) .b 0).loc) = true)) ∧
    ¬ (digits (trunc .b (s.ctx.getD 4#3)) = true ∧ digits (trunc .b (s.ctx.getD 5#3)) = true) ∧
    modifyReady s (.ind 0#3) .b 0 = true ∧ digits (valueAt s .b (placeOf s (.ind 0#3) .b 0).loc) = false := by
  decide +kernel

theorem witness_ShiftForms :
    untraced supervisor = true ∧ modifyReady supervisor (.postinc 0#3) .w 0 = true := by decide +kernel

/-- All registers, and none, to and from both kinds of address; the base register in the list under each policy. -/
theorem witness_MovemForms : ∀ sz ∈ [Size.w, .l], ∀ count ∈ [0, 16],
    let s := supervisor
    let f := configured s fun p => { p with movemSelfLoad := .fetchedPlusSize }
    let nb := BitVec.ofNat 32 sz.bytes
    let a := addrOf s (.disp 0#3 4#16) 1
    (untraced s = true ∧ fetchable s 0 1 = true ∧ addressReady s (.disp 0#3 4#16) 1 = true ∧
      slotsWritable s sz a nb count = true ∧ slotsReadable s sz a nb count = true) ∧
    (∀ m, EA.disp 0#3 4#16 ≠ .predec m) ∧ (∀ m, EA.disp 0#3 4#16 ≠ .postinc m) ∧
    slotsWritable s sz (s.ctx.getA 7#3 - nb) (-nb) count = true ∧
    slotsReadable s sz (s.ctx.getA 7#3) nb count = true ∧ s.params.movemSelfLoad = .finalAddress ∧
    f.params.movemSelfLoad = .fetchedPlusSize ∧
    (((List.range 16).filter fun k => (0xFFFF#16).getLsbD k).map (BitVec.ofNat 4))[15]? = some (1#1 ++ 7#3) := by
  decide +kernel

/-- All registers but A0. -/
theorem witness_MovemRoundTrip :
    let count := ((List.range 16).filter fun k => (0xFEFF#16).getLsbD k).length
    untraced supervisor = true ∧ fetchable supervisor 0 1 = true ∧ (0xFEFF#16).getLsbD (8 + (0#3).toNat) = false ∧
    4 * count ≤ (supervisor.ctx.getA 0#3).toNat ∧ 4 * count ≤ 2 ^ supervisor.params.addrBits ∧
    noRom supervisor (supervisor.ctx.getA 0#3 - BitVec.ofNat 32 (4 * count)) (4 * count) = true ∧
    slotsWritable supervisor .l (supervisor.ctx.getA 0#3 - 4#32) (-4#32) count = true := by decide +kernel

theorem witness_MovepForms :
    let a := supervisor.ctx.getA 0#3 + (0xFFFF#16 : Word).signExtend 32
    untraced supervisor = true ∧ fetchable supervisor 0 1 = true ∧ slotsWritable supervisor .b a 2#32 4 = true ∧
    slotsReadable supervisor .b a 2#32 4 = true ∧ slotsWritable supervisor .b a 2#32 2 = true ∧
    slotsReadable supervisor .b a 2#32 2 = true := by decide +kernel

theorem witness_StackForms :
    untraced supervisor = true ∧ addressReady supervisor (.ind 7#3) 0 = true ∧ pushable supervisor .l = true ∧
    (6#3 : BitVec 3) ≠ 7#3 ∧ fetchable supervisor 0 2 = true ∧ readable supervisor (supervisor.ctx.getA 6#3) .l = true := by
  decide +kernel

theorem witness_MultiplyForms :
    untraced supervisor = true ∧ sourceReady supervisor (.postinc 0#3) .w 0 = true ∧ fetchable supervisor 0 1 = true ∧
    sourceReady supervisor (.postinc 0#3) .l 1 = true ∧ supervisor.params.undefined = .free ∧
    (configured supervisor fun p => { p with undefined := .refuse }).params.undefined = .refuse ∧
    ((1#1 : BitVec 1) ≠ 0#1 ∨ (0#7 : BitVec 7) ≠ 0#7) ∧ ((0#1 : BitVec 1) ≠ 0#1 ∨ (1#7 : BitVec 7) ≠ 0#7) := by
  decide +kernel

/-- Quotients at both ends of the range, one past it, a negative remainder, and a zero divisor. -/
theorem witness_DivideWordForms :
    (untraced supervisor = true ∧ sourceReady supervisor (.dn 1#3) .w 0 = true ∧
      sourceReady supervisor (.dn 3#3) .w 0 = true ∧ signedOf .w (trunc .w (supervisor.ctx.getD 3#3)) = 0 ∧
      entryReady supervisor supervisor.params.vec.zeroDivide true = true) ∧
    (∀ r ∈ [((163839 : Int), (5 : Int), (32767 : Int), (4 : Int)), (163840, 5, 32768, 0), (-163844, 5, -32768, -4),
        (-163845, 5, -32769, 0), (327679, 5, 65535, 4), (327680, 5, 65536, 0)],
      r.1 = r.2.2.1 * r.2.1 + r.2.2.2 ∧ r.2.2.2.natAbs < r.2.1.natAbs ∧ 0 ≤ r.2.2.2 * r.1) := by decide +kernel

/-- The same for the long forms, and two registers. -/
theorem witness_DivideLongForms :
    (untraced supervisor = true ∧ fetchable supervisor 0 1 = true ∧ sourceReady supervisor (.dn 1#3) .l 1 = true ∧
      sourceReady supervisor (.dn 3#3) .l 1 = true ∧ (supervisor.ctx.getD 3#3).toInt = 0 ∧ (2#3 : BitVec 3) ≠ 0#3 ∧
      entryReady supervisor supervisor.params.vec.zeroDivide true = true) ∧
    (∀ r ∈ [((-2147483648 : Int), (-1 : Int), (2147483648 : Int), (0 : Int)), (-2147483648, 1, -2147483648, 0),
        (21474836479, 5, 4294967295, 4), (21474836480, 5, 4294967296, 0)],
      r.1 = r.2.2.1 * r.2.1 + r.2.2.2 ∧ r.2.2.2.natAbs < r.2.1.natAbs ∧ 0 ≤ r.2.2.2 * r.1) := by decide +kernel

theorem witness_BitForms :
    untraced supervisor = true ∧ fetchable supervisor 0 1 = true ∧
    (∀ k ∈ [0, 1], modifyReady supervisor (.dn 7#3) .l k = true ∧ modifyReady supervisor (.postinc 7#3) .b k = true ∧
      sourceReady supervisor (.dn 7#3) .l k = true ∧ sourceReady supervisor (.pcDisp 0#16) .b k = true) ∧
    modifyReady supervisor (.predec 7#3) .b 0 = true ∧ modifyReady supervisor (.dn 0#3) .b 0 = true := by
  decide +kernel

/-- A condition that holds and one that does not; a counter of 0 and one of 5. -/
theorem witness_BranchForms :
    untraced supervisor = true ∧ (∀ d ∈ [Disp.byte 0x80#8, .word 0x8000#16, .long 0x80000000#32],
      fetchable supervisor 0 d.exts.length = true) ∧
    supervisor.ctx.ccr.c = true ∧ supervisor.ctx.ccr.z = false ∧
    Machine.cond 5#4 supervisor.ctx.ccr = true ∧ Machine.cond 1#4 supervisor.ctx.ccr = false ∧
    (supervisor.ctx.getD 3#3).setWidth 16 = 0#16 ∧ (supervisor.ctx.getD 1#3).setWidth 16 ≠ 0#16 ∧
    fetchable supervisor 0 1 = true := by decide +kernel

theorem witness_CallAndReturnForms :
    untraced supervisor = true ∧ addressReady supervisor (.absL 0xFFFFFFFE#32) 0 = true ∧ pushable supervisor .l = true ∧
    (∀ d ∈ [Disp.byte 0x80#8, .word 0x8000#16, .long 0x80000000#32],
      fetchable (supervisor.pushed .l (supervisor.after (1 + d.exts.length))) 0 d.exts.length = true) ∧
    readable supervisor supervisor.ctx.sp .l = true ∧ fetchable supervisor 0 1 = true ∧
    readable supervisor supervisor.ctx.sp .w = true ∧ readable supervisor (supervisor.ctx.sp + 2#32) .l = true := by
  decide +kernel

theorem witness_CallThenReturn :
    untraced user = true ∧ pushable user .l = true ∧ noRom user (user.ctx.sp - 4#32) 4 = true ∧
    4 ≤ 2 ^ user.params.addrBits ∧ fetchable user 0 2 = true ∧
    fetchable (user.pushed .l (user.after 2)) 0 1 = true ∧ addressReady user (.ind 7#3) 0 = true ∧
    (0#3 : BitVec 3) ≠ 7#3 ∧ fetchable user 0 1 = true := by decide +kernel

/-- Writable and refused values of SR; a layout other than the default, and a place it leaves free. -/
theorem witness_StatusForms :
    ({ t1 := 0, t0 := 1, s := 2, i2 := 5, i1 := 6, i0 := 7 } : SrLayout).distinct = true ∧ SrLayout.default.distinct = true ∧
    (3 : Fin 8) ∉ [SrLayout.default.t1, SrLayout.default.t0, SrLayout.default.s, SrLayout.default.i2, SrLayout.default.i1,
      SrLayout.default.i0] ∧
    untraced supervisor = true ∧ fetchable supervisor 0 1 = true ∧ sourceReady supervisor (.imm 0xFFFF#32) .w 0 = true ∧
    srS supervisor.ctx.sr = true ∧ srWritable supervisor 0x27FF#16 = true ∧ srWritable supervisor 0x8000#16 = false := by
  decide +kernel

/-- An extended code in Master Context_0, an unknown code, and a known code in another context. -/
theorem witness_MovecForms :
    let s := { supervisor with extRegs := [(0xFFF#12, .plain 7#32)] }
    let t := { s with cur := 1, ctxs := s.ctxs.set 1 { s.ctx with run := .ready } }
    (untraced s = true ∧ srS s.ctx.sr = true ∧ fetchable s 0 1 = true ∧
      (0xFFF#12 ∉ [0x000#12, 0x001#12, 0x800#12, 0x801#12]) ∧ s.cur = 0 ∧
      s.extRegs.find? (fun e => e.1 == 0xFFF#12) = some (0xFFF#12, .plain 7#32)) ∧
    (let f := { supervisor with extRegs := [(0x123#12, .fcr)] }
     f.cur = 0 ∧ f.extRegs.find? (fun e => e.1 == 0x123#12) = some (0x123#12, .fcr) ∧
      (0x123#12 ∉ [0x000#12, 0x001#12, 0x800#12, 0x801#12]) ∧ (f.ctx.getR 0#4).toNat % 8 = 4 ∧
      4 < (f.ctx.getR 1#4).toNat % 8) ∧
    ((∀ e ∈ s.extRegs, e.1 ≠ 0x802#12) ∧ entryReady s s.params.vec.illegal false = true) ∧
    untraced t = true ∧ srS t.ctx.sr = true ∧ fetchable t 0 1 = true ∧ t.cur ≠ 0 ∧
      entryReady t t.params.vec.illegal false = true := by decide +kernel

theorem witness_UspAndMoves :
    untraced supervisor = true ∧ srS supervisor.ctx.sr = true ∧ fetchable supervisor 0 1 = true ∧ (1#11 : BitVec 11) ≠ 0#11 ∧
    (∀ sz ∈ [Size.b, .w, .l], targetReady supervisor (.postinc 7#3) sz 1 = true ∧
      sourceReady supervisor (.postinc 7#3) sz 1 = true) ∧
    movesItself 7#4 (.postinc 7#3) = false ∧ movesItself 15#4 (.postinc 7#3) = true ∧
    (placeOf supervisor (.postinc 7#3) .b 1).upd = some (7#3, 0x4002#32) ∧ (15#4 : BitVec 4) = 1#1 ++ 7#3 := by
  decide +kernel

/-- Both formats, another one, and a stacked trace bit. -/
theorem witness_RteForms :
    let s : Byte → Byte → State := fun hi fmt => holding supervisor 0x4000 [hi, 0#8, 0#8, 0#8, 0x12#8, 0#8, fmt, 0#8]
    let format : State → Nat := fun t => (t.readAt (t.ctx.ssp + 6#32).toNat .w).toNat / 2 ^ 12
    let sr : State → Word := fun t => (t.readAt t.ctx.ssp.toNat .w).setWidth 16
    (∀ r ∈ [(0x27#8, 0x0F#8, 0), (0x00#8, 0x2F#8, 2), (0x27#8, 0x1F#8, 1), (0x27#8, 0x3F#8, 3), (0x80#8, 0#8, 0)],
      let t := s r.1 r.2.1
      untraced t = true ∧ srS t.ctx.sr = true ∧ readable t t.ctx.ssp .w = true ∧ readable t (t.ctx.ssp + 2#32) .l = true ∧
      readable t (t.ctx.ssp + 6#32) .w = true ∧ format t = r.2.2 ∧ entryReady t t.params.vec.formatError false = true) ∧
    srWritable (s 0x27#8 0x0F#8) (sr (s 0x27#8 0x0F#8)) = true ∧
    srWritable (s 0x80#8 0#8) (sr (s 0x80#8 0#8)) = false := by decide +kernel

/-- In Master Context_0 and in another context. -/
theorem witness_WaitForms :
    let t := { supervisor with cur := 1, ctxs := supervisor.ctxs.set 1 supervisor.ctx }
    ∀ s ∈ [supervisor, t], untraced s = true ∧ srS s.ctx.sr = true ∧ fetchable s 0 1 = true ∧ fetchable s 0 2 = true ∧
      srWritable s 0x2000#16 = true ∧ srWritable s 0x4000#16 = false ∧ (s.cur = 0 ∨ s.cur ≠ 0) := by decide +kernel

theorem witness_SchedulerChoosesReady_events :
    let s := { supervisor with ctxs := #v[supervisor.ctx, { Ctx.absent with run := .notReady },
      { Ctx.absent with jtagHalt := true }, Ctx.absent, Ctx.absent] }
    let d := configured s fun p => { p with memMap := [⟨0x9000, 1, .device 0⟩] }
    s.ctxs[1].run = .notReady ∧ s.ctxs[3].run ≠ .notReady ∧ (s.ctxs[2].jtagHalt = true ∧ s.ctxs[2].run = .halted) ∧
    s.ctxs[1].jtagHalt = false ∧ hasDevice d.params = true ∧ kindAt d.params 0x2000 = .ram ∧ kindAt d.params 0x9000 ≠ .ram ∧
    hasDevice s.params = false := by decide +kernel

theorem witness_SchedulerChoosesReady :
    let s := { supervisor with ctxs := #v[Ctx.absent, Ctx.absent, Ctx.afterReset, Ctx.absent, Ctx.afterReset] }
    (∃ j : Fin 5, s.ctxs[j.val].run = .ready) ∧ supervisor.ctxs[0].run = .ready ∧
    ∀ j : Fin 5, ({ supervisor with ctxs := Vector.replicate 5 Ctx.absent } : State).ctxs[j.val].run ≠ .ready := by
  decide +kernel

/-- A value on the bound, one past it, and a negative one; the exception can be taken. -/
theorem witness_CheckForms :
    (∀ sz ∈ [Size.w, .l], untraced supervisor = true ∧ sourceReady supervisor (.dn 1#3) sz 0 = true ∧
      entryReady supervisor 6#8 true = true ∧
      (0 ≤ signedOf sz (supervisor.ctx.getD 1#3) ∧
        signedOf sz (supervisor.ctx.getD 1#3) ≤ signedOf sz (valueAt supervisor sz (.dreg 1#3))) ∧
      signedOf sz (valueAt supervisor sz (.dreg 1#3)) < signedOf sz (supervisor.ctx.getD 4#3) ∧
      signedOf sz (supervisor.ctx.getD 2#3) < 0) := by decide +kernel

/-- Every vector's frame can be pushed; the three settings of BKPT; conditions that hold and do not. -/
theorem witness_TrapForms :
    let b := configured supervisor fun p => { p with dcrBkpt := true }
    let j := configured b fun p => { p with jtagBkptMode := true }
    untraced supervisor = true ∧ entryReady supervisor supervisor.params.vec.illegal false = true ∧
    entryReady supervisor 47#8 false = true ∧ entryReady supervisor 12#8 true = true ∧
    supervisor.params.dcrBkpt = false ∧ b.params.dcrBkpt = true ∧ b.params.jtagBkptMode = false ∧
    entryReady b 12#8 false = true ∧ untraced j = true ∧ j.params.dcrBkpt = true ∧ j.params.jtagBkptMode = true ∧
    Machine.cond 0#4 supervisor.ctx.ccr = true ∧ Machine.cond 1#4 supervisor.ctx.ccr = false ∧
    supervisor.ctx.ccr.v = false ∧ (supervisor.withSr 0x2702#16).ctx.ccr.v = true ∧ entryReady supervisor 7#8 true = true :=
  by decide +kernel

/-- From another context, in both interrupt modes of Master Context_0. -/
theorem witness_TrapxForms :
    let k : Byte := BitVec.ofNat 8 (96 + (15#4).toNat)
    let base := { supervisor with cur := 4, ctxs := supervisor.ctxs.set 4 user.ctx }
    let std := configured base fun p => { p with stdIntMode := Vector.replicate 5 true }
    let t : State → State := fun s =>
      let c := s.withPc (s.ctx.pc + 2#32)
      { c with ctxs := c.ctxs.set 0 { c.ctxs[0] with run := .ready }, stale := [], fcr := s.cur, cur := 0 }
    std.params.stdIntMode[0] = true ∧ entryReady (t std) k false = true ∧ base.params.stdIntMode[0] = false ∧
    readable (t base) (vectorAddr (t base) k) .l = true := by decide +kernel

/-- Tracing on, with a value of SR. -/
def tracing (sr : Word) : State := (configured supervisor fun p => { p with tracePolicy := .cpu32 }).withSr sr

/-- The three settings of the trace bits. -/
theorem witness_TraceAfterInstruction :
    ((tracing 0xA000#16).params.tracePolicy = .cpu32 ∧ srT1 (tracing 0xA000#16).ctx.sr = true ∧
      srT0 (tracing 0xA000#16).ctx.sr = false ∧
      entryReady ((tracing 0xA000#16).finished 1 (tracing 0xA000#16).flush) 12#8 true = true) ∧
    ((tracing 0x6000#16).params.tracePolicy = .cpu32 ∧ srT1 (tracing 0x6000#16).ctx.sr = false ∧
      srT0 (tracing 0x6000#16).ctx.sr = true ∧ entryReady ((tracing 0x6000#16).withPc 0#32) 12#8 true = true) ∧
    (tracing 0xE000#16).params.tracePolicy = .cpu32 ∧ srT1 (tracing 0xE000#16).ctx.sr = true ∧
      srT0 (tracing 0xE000#16).ctx.sr = true := by decide +kernel

/-- A traced machine with a four-word frame on its stack, and what RTE makes of it. -/
def tracedFrame (sr : Word) : State := holding (tracing sr) 0x4000 [0x00#8, 0x00#8, 0#8, 0#8, 0x12#8, 0#8, 0#8, 0#8]
def tracedReturn (s : State) : State := s.flush.withCtx { s.ctx with
  ssp := s.ctx.ssp + 8#32, sr := srUnpack s.params.srLayout ((s.readAt s.ctx.ssp.toNat .w).setWidth 16)
  pc := s.readAt (s.ctx.ssp + 2#32).toNat .l }

/-- STOP and RTE, traced by either bit. -/
theorem witness_TraceAfterInstruction_stop_rte : ∀ s ∈ [tracedFrame 0xA000#16, tracedFrame 0x6000#16],
    s.params.tracePolicy = .cpu32 ∧ srS s.ctx.sr = true ∧ srT1 s.ctx.sr ≠ srT0 s.ctx.sr ∧ fetchable s 0 1 = true ∧
    entryReady (s.finished 2 (s.flush.withSr 0x2000#16)) s.params.vec.trace true = true ∧
    readable s s.ctx.ssp .w = true ∧ readable s (s.ctx.ssp + 2#32) .l = true ∧ readable s (s.ctx.ssp + 6#32) .w = true ∧
    (s.readAt (s.ctx.ssp + 6#32).toNat .w).toNat / 2 ^ 12 = 0 ∧
    entryReady (tracedReturn s) s.params.vec.trace true = true := by
  decide +kernel

/-- Words of class U at the pc, full extension words of each kind, and 0108, which R123 names twice. -/
theorem witness_RefusedForms :
    let s : List Byte → State := holding supervisor 0x1000
    (∀ r ∈ [([0x4A#8, 0xFB#8], Decoded.illegal), ([0xA1#8, 0x23#8], .lineA), ([0xF8#8, 0#8], .lineF)],
      let t := s r.1
      t.mark = .none ∧ t.events = [] ∧ t.irqs = [] ∧ canRun t = true ∧ fetchCheck t t.ctx.pc = none ∧
      fetchDecode t = r.2 ∧ fetchable t 0 1 = true) ∧
    (entryReady supervisor 4#8 false = true ∧ entryReady supervisor 10#8 false = true ∧
      entryReady supervisor 11#8 false = true) ∧
    ((s [0xF8#8, 0#8]).codeWord 0x1000#32).extractLsb' 12 4 = 15#4 ∧
    (s [0xF8#8, 0#8]).codeWord (0x1000#32 + 2#32) ≠ 0x01C0#16 ∧ (0x0100#16 : Word).getLsbD 8 = true ∧
    (0x0100#16 : Word).extractLsb' 4 2 = 0#2 ∧ (0x0151#16 : Word).getLsbD 6 = true ∧
    (0x0111#16 : Word).extractLsb' 0 3 ≠ 0#3 ∧ (0x0118#16 : Word).getLsbD 3 = true ∧
    (0x01D0#16 : Word).extractLsb' 4 2 = 1#2 ∧ (0x01D0#16 : Word).getLsbD 7 = true ∧
    (0x0108#16 : Word).getLsbD 8 = true ∧ (0x0108#16 : Word).extractLsb' 4 2 = 0#2 ∧ (0x0108#16 : Word).getLsbD 3 = true ∧
    decode 0x4EF0#16 [0x0108#16] = .instr (.jmp (.idx 0#3 (.illegal 0x0108#16))) := by decide +kernel

/-- An ALU instruction, a compare and a multiply that complete. -/
theorem witness_FrameOfReads :
    untraced supervisor = true ∧ sourceReady supervisor (.postinc 0#3) .b 0 = true ∧
    sourceReady supervisor (.postinc 0#3) .w 0 = true ∧ sourceReady supervisor (.postinc 0#3) .l 0 = true ∧
    completes (exec (.addToDnB 0#3 (.postinc 0#3)) supervisor) = true ∧
    completes (exec (.mulsW 0#3 (.postinc 0#3)) supervisor) = true ∧
    completes (exec (.cmpaL 0#3 (.postinc 0#3)) supervisor) = true :=
  by decide +kernel

/-- A store through an update, one to a register, and a MOVE between two updates, that complete. -/
theorem witness_FrameOfStores :
    let s := supervisor
    (untraced s = true ∧ modifyReady s (.predec 7#3) .b 0 = true ∧ modifyReady s (.dn 0#3) .l 0 = true ∧
      (placeOf s (.predec 7#3) .b 0).loc = .mem 0x3FFE#32 ∧ (placeOf s (.dn 0#3) .l 0).loc = .dreg 0#3) ∧
    completes (exec (.addToEaB 0#3 (.predec 7#3)) s) = true ∧ completes (exec (.negL (.dn 0#3)) s) = true ∧
    (sourceReady s (.postinc 0#3) .l 0 = true ∧
      targetReady (s.bump (placeOf s (.postinc 0#3) .l 0)) (.predec 1#3) .l 0 = true) ∧
    completes (exec (.moveL (.postinc 0#3) (.predec 1#3)) s) = true :=
  by decide +kernel

theorem witness_FrameOfStack :
    (untraced supervisor = true ∧ pushable supervisor .l = true ∧ addressReady supervisor (.ind 7#3) 0 = true ∧
      fetchable supervisor 0 2 = true ∧ fetchable (supervisor.pushed .l (supervisor.after 2)) 0 1 = true ∧
      readable supervisor supervisor.ctx.sp .l = true ∧ readable supervisor supervisor.ctx.sp .w = true ∧
      readable supervisor (supervisor.ctx.sp + 2#32) .l = true ∧ fetchable supervisor 0 1 = true) ∧
    completes (exec (.bsr (.word 4#16)) supervisor) = true ∧ completes (exec (.linkL 0#3 0#32) supervisor) = true ∧
    completes (exec .rtr supervisor) = true ∧ (6#3 : BitVec 3) ≠ 7#3 ∧
    readable supervisor (supervisor.ctx.getA 6#3) .l = true ∧ completes (exec (.unlk 6#3) supervisor) = true :=
  by decide +kernel

end Sys2Proof.Tests
end

/-! ## Addition and subtraction as integers (00_scope.md R14)

An operand of size n is read once as a bit vector of width n. Its top bit and its signed value then follow from its
unsigned value, so that the flags of `addN` and `subN` are statements about integers and the half range 2^(n-1). -/

namespace Sys2Proof.Machine

/-! ### An operand as a bit vector of its size -/

theorem unsignedOf_eq_toNat (sz : Size) (v : Long) : unsignedOf sz v = (v.setWidth sz.bits).toNat := by
  cases sz with
  | b | w => simp only [unsignedOf, trunc, Size.bits, BitVec.toNat_setWidth]; omega
  | l => simp [unsignedOf, trunc, Size.bits]

theorem signedOf_eq_toInt (sz : Size) (v : Long) : signedOf sz v = (v.setWidth sz.bits).toInt := by
  cases sz with
  | b | w => exact BitVec.toInt_signExtend_of_le (by decide)
  | l => simp [signedOf, sext, Size.bits]

theorem msb_eq_msb_setWidth (sz : Size) (v : Long) : msb sz v = (v.setWidth sz.bits).msb := by
  cases sz <;> simp [msb, Size.bits, BitVec.msb_eq_getLsbD_last]

/-! ### An operand by its unsigned value -/

/-- The range of an operand is twice its half range. -/
theorem two_pow_bits (sz : Size) : (2 : Int) ^ sz.bits = 2 * 2 ^ (sz.bits - 1) := by cases sz <;> rfl

theorem two_pow_bits_le (sz : Size) : 2 ^ sz.bits ≤ 2 ^ 32 := by cases sz <;> decide

theorem unsignedOf_range (sz : Size) (v : Long) :
    0 ≤ (unsignedOf sz v : Int) ∧ (unsignedOf sz v : Int) < 2 * 2 ^ (sz.bits - 1) := by
  rw [← two_pow_bits, unsignedOf_eq_toNat]
  exact ⟨Int.natCast_nonneg _, by exact_mod_cast (v.setWidth sz.bits).isLt⟩

/-- A value within the size is its own unsigned value. -/
theorem unsignedOf_of_lt {sz : Size} {v : Long} (h : v.toNat < 2 ^ sz.bits) : unsignedOf sz v = v.toNat := by
  rw [unsignedOf_eq_toNat, BitVec.toNat_setWidth, Nat.mod_eq_of_lt h]

/-- The top bit is set from the half range on. -/
theorem msb_iff (sz : Size) (v : Long) : msb sz v = true ↔ (2 : Int) ^ (sz.bits - 1) ≤ unsignedOf sz v := by
  rw [msb_eq_msb_setWidth, BitVec.msb_eq_decide, decide_eq_true_iff, unsignedOf_eq_toNat]
  norm_cast

/-- The signed value of an operand of unsigned value `a`, when `h` is half its range. -/
def signedFrom (h a : Int) : Int := if h ≤ a then a - 2 * h else a

/-- The signed value of an operand is that of its unsigned value (R8). -/
theorem signedOf_eq_signedFrom (sz : Size) (v : Long) :
    signedOf sz v = signedFrom (2 ^ (sz.bits - 1)) (unsignedOf sz v) := by
  rw [signedOf_eq_toInt, BitVec.toInt_eq_msb_cond, ← msb_eq_msb_setWidth, ← unsignedOf_eq_toNat, signedFrom,
    ← two_pow_bits]
  simp only [msb_iff]
  norm_cast

/-! ### The results -/

theorem addN_res_toNat (sz : Size) (s d : Long) (x : Bool) :
    (addN sz s d x).res.toNat = (unsignedOf sz s + unsignedOf sz d + x.toNat) % 2 ^ sz.bits := by
  have hlt := Nat.mod_lt (unsignedOf sz s + unsignedOf sz d + x.toNat) (Nat.two_pow_pos sz.bits)
  exact Nat.mod_eq_of_lt (hlt.trans_le (two_pow_bits_le sz))

theorem subN_res_toNat (sz : Size) (s d : Long) (x : Bool) :
    ((subN sz s d x).res.toNat : Int) =
      ((unsignedOf sz d : Int) - unsignedOf sz s - (x.toNat : Int)) % 2 ^ sz.bits := by
  have hpos : (0 : Int) < 2 ^ sz.bits := by positivity
  have hle : (2 : Int) ^ sz.bits ≤ 2 ^ 32 := by exact_mod_cast two_pow_bits_le sz
  have h0 := Int.emod_nonneg ((unsignedOf sz d : Int) - unsignedOf sz s - x.toNat) hpos.ne'
  have hlt := Int.emod_lt_of_pos ((unsignedOf sz d : Int) - unsignedOf sz s - x.toNat) hpos
  rw [subN, BitVec.toNat_ofInt, Int.toNat_of_nonneg (Int.emod_nonneg _ (by decide))]
  exact Int.emod_eq_of_lt h0 (hlt.trans_le hle)

theorem unsignedOf_addN_res (sz : Size) (s d : Long) (x : Bool) :
    (unsignedOf sz (addN sz s d x).res : Int) =
      ((unsignedOf sz s : Int) + unsignedOf sz d + x.toNat) % (2 * 2 ^ (sz.bits - 1)) := by
  have hlt : (addN sz s d x).res.toNat < 2 ^ sz.bits := by
    rw [addN_res_toNat]; exact Nat.mod_lt _ (Nat.two_pow_pos _)
  rw [unsignedOf_of_lt hlt, addN_res_toNat, ← two_pow_bits]
  norm_cast

theorem unsignedOf_subN_res (sz : Size) (s d : Long) (x : Bool) :
    (unsignedOf sz (subN sz s d x).res : Int) =
      ((unsignedOf sz d : Int) - unsignedOf sz s - x.toNat) % (2 * 2 ^ (sz.bits - 1)) := by
  have hlt : ((subN sz s d x).res.toNat : Int) < 2 ^ sz.bits := by
    rw [subN_res_toNat]; exact Int.emod_lt_of_pos _ (by positivity)
  rw [unsignedOf_of_lt (by exact_mod_cast hlt), subN_res_toNat, two_pow_bits]

/-! ### Overflow

In the two rules on integers `h` is the half range, `a` and `b` are the unsigned values of the operands, `x` is the
carry in and `r` the unsigned value of the result. -/

/-- A sum leaves the signed range exactly where the operands have one sign and the result has the other. -/
theorem add_signs_iff_overflow {h a b x r : Int} (ha : 0 ≤ a ∧ a < 2 * h) (hb : 0 ≤ b ∧ b < 2 * h)
    (hx : 0 ≤ x ∧ x ≤ 1) (hr : r = (a + b + x) % (2 * h)) :
    ((h ≤ a ↔ h ≤ b) ∧ ¬(h ≤ r ↔ h ≤ b)) ↔
      ¬(-h ≤ signedFrom h a + signedFrom h b + x ∧ signedFrom h a + signedFrom h b + x ≤ h - 1) := by
  have wrap : r = a + b + x ∧ a + b + x < 2 * h ∨ r = a + b + x - 2 * h ∧ 2 * h ≤ a + b + x := by
    rcases lt_or_ge (a + b + x) (2 * h) with hlt | hge
    · exact .inl ⟨by rw [hr, Int.emod_eq_of_lt (by omega) hlt], hlt⟩
    · exact .inr ⟨by rw [hr, ← Int.sub_emod_right, Int.emod_eq_of_lt (by omega) (by omega)], hge⟩
  unfold signedFrom
  omega

/-- A difference leaves the signed range exactly where the operands differ in sign and the result has not the sign of
the minuend. -/
theorem sub_signs_iff_overflow {h a b x r : Int} (ha : 0 ≤ a ∧ a < 2 * h) (hb : 0 ≤ b ∧ b < 2 * h)
    (hx : 0 ≤ x ∧ x ≤ 1) (hr : r = (b - a - x) % (2 * h)) :
    (¬(h ≤ a ↔ h ≤ b) ∧ ¬(h ≤ r ↔ h ≤ b)) ↔
      ¬(-h ≤ signedFrom h b - signedFrom h a - x ∧ signedFrom h b - signedFrom h a - x ≤ h - 1) := by
  have wrap : r = b - a - x ∧ 0 ≤ b - a - x ∨ r = b - a - x + 2 * h ∧ b - a - x < 0 := by
    rcases lt_or_ge (b - a - x) 0 with hlt | hge
    · exact .inr ⟨by rw [hr, ← Int.add_emod_right, Int.emod_eq_of_lt (by omega) (by omega)], hlt⟩
    · exact .inl ⟨by rw [hr, Int.emod_eq_of_lt hge (by omega)], hge⟩
  unfold signedFrom
  omega

/-- A carry in is 0 or 1. -/
theorem carryIn_range (x : Bool) : 0 ≤ (x.toNat : Int) ∧ (x.toNat : Int) ≤ 1 := by cases x <;> decide

theorem addN_v_iff (sz : Size) (s d : Long) (x : Bool) :
    (addN sz s d x).v = true ↔
      ¬(-2 ^ (sz.bits - 1) ≤ signedOf sz s + signedOf sz d + (x.toNat : Int) ∧
        signedOf sz s + signedOf sz d + (x.toNat : Int) ≤ 2 ^ (sz.bits - 1) - 1) := by
  have hv : (addN sz s d x).v = (msb sz s == msb sz d && msb sz (addN sz s d x).res != msb sz d) := rfl
  rw [hv, signedOf_eq_signedFrom, signedOf_eq_signedFrom, ← add_signs_iff_overflow (unsignedOf_range sz s)
    (unsignedOf_range sz d) (carryIn_range x) (unsignedOf_addN_res sz s d x)]
  simp only [← msb_iff, Bool.and_eq_true, beq_iff_eq, bne_iff_ne, ne_eq, Bool.coe_iff_coe]

theorem subN_v_iff (sz : Size) (s d : Long) (x : Bool) :
    (subN sz s d x).v = true ↔
      ¬(-2 ^ (sz.bits - 1) ≤ signedOf sz d - signedOf sz s - (x.toNat : Int) ∧
        signedOf sz d - signedOf sz s - (x.toNat : Int) ≤ 2 ^ (sz.bits - 1) - 1) := by
  have hv : (subN sz s d x).v = (msb sz s != msb sz d && msb sz (subN sz s d x).res != msb sz d) := rfl
  rw [hv, signedOf_eq_signedFrom, signedOf_eq_signedFrom, ← sub_signs_iff_overflow (unsignedOf_range sz s)
    (unsignedOf_range sz d) (carryIn_range x) (unsignedOf_subN_res sz s d x)]
  simp only [← msb_iff, Bool.and_eq_true, bne_iff_ne, ne_eq, Bool.coe_iff_coe]

/-- Settles O21: results and overflow by the lemmas above; carry, borrow, N and Z as `addN`, `subN` and `sumFlags`
define them. -/
theorem addSubArithmetic : Obligations.AddSubArithmetic := fun sz s d x =>
  ⟨addN_res_toNat sz s d x, decide_eq_true_iff, addN_v_iff sz s d x, rfl,
    subN_res_toNat sz s d x, decide_eq_true_iff, subN_v_iff sz s d x, rfl, fun _ => ⟨rfl, decide_eq_true_iff⟩⟩

end Sys2Proof.Machine

/-! ## Calls, jumps and returns (47_program_control.md R354, R357 to R362) -/

namespace Sys2Proof.Machine

@[simp] theorem nextAddr_run (words : Nat) (s : State) : nextAddr words s = .ok (s.after words) s := rfl

/-- The target of a branch whose displacement words can be fetched (R351). -/
theorem branchTarget_run {s : State} {d : Disp} (h : fetchable s 0 d.exts.length = true) :
    branchTarget d s = .ok (s.ctx.pc + 2#32 + dispValue d) s := by
  rw [branchTarget, M_bind_ok (touchExt_run h)]
  rfl

theorem exec_jmp {s : State} {ea : EA} (hu : untraced s = true) (ha : addressReady s ea 0 = true) :
    exec (.jmp ea) s = .next (s.withPc (addrOf s ea 0)) := by
  refine runInstr_goto hu ?_
  rw [M_bind_ok (addrEA_run ha)]
  rfl

theorem exec_jsr {s : State} {ea : EA} (hu : untraced s = true) (ha : addressReady s ea 0 = true)
    (hp : pushable s .l = true) :
    exec (.jsr ea) s = .next ((s.pushed .l (s.after (1 + ea.extWords .l))).withPc (addrOf s ea 0)) := by
  refine runInstr_goto hu ?_
  rw [M_bind_ok (addrEA_run ha), M_bind_ok (nextAddr_run _ _), M_bind_ok (push_run hp _)]
  rfl

/-- BSR fetches its displacement words in the state the push leaves (log 42). -/
theorem exec_bsr {s : State} {d : Disp} (hu : untraced s = true) (hp : pushable s .l = true)
    (hf : fetchable (s.pushed .l (s.after (1 + d.exts.length))) 0 d.exts.length = true) :
    exec (.bsr d) s =
      let t := s.pushed .l (s.after (1 + d.exts.length))
      .next (t.withPc (s.ctx.pc + 2#32 + dispValue (laterDisp s t d))) := by
  refine runInstr_goto hu ?_
  rw [M_bind_ok (nextAddr_run _ _), M_bind_ok (push_run hp _), M_bind_read,
    M_bind_ok (branchTarget_run (by rwa [laterDisp_words])), State.pushed_ctx, Ctx.withSp_pc]
  rfl

theorem exec_rts {s : State} (hu : untraced s = true) (hr : readable s s.ctx.sp .l = true) :
    exec .rts s = .next ((s.withSp (s.ctx.sp + 4#32)).withPc (s.readAt s.ctx.sp.toNat .l)) := by
  refine runInstr_goto hu ?_
  rw [M_bind_ok (getSp_run s), M_bind_ok (memRead_run hr), M_bind_ok (setSp_run _ _)]
  rfl

theorem exec_rtd {s : State} (d : Word) (hu : untraced s = true) (hr : readable s s.ctx.sp .l = true)
    (hf : fetchable s 0 1 = true) :
    exec (.rtd d) s =
      .next ((s.withSp (s.ctx.sp + 4#32 + d.signExtend 32)).withPc (s.readAt s.ctx.sp.toNat .l)) := by
  refine runInstr_goto hu ?_
  rw [M_bind_ok (getSp_run s), M_bind_ok (memRead_run hr), M_bind_ok (touchExt_run hf), M_bind_ok (setSp_run _ _)]
  rfl

theorem exec_rtr {s : State} (hu : untraced s = true) (hw : readable s s.ctx.sp .w = true)
    (hl : readable s (s.ctx.sp + 2#32) .l = true) :
    exec .rtr s = .next (((s.withSp (s.ctx.sp + 6#32)).withCcr
      (Ccr.ofWord ((s.readAt s.ctx.sp.toNat .w).setWidth 16))).withPc (s.readAt (s.ctx.sp + 2#32).toNat .l)) := by
  refine runInstr_goto hu ?_
  rw [M_bind_ok (getSp_run s), M_bind_ok (memRead_run hw), M_bind_ok (memRead_run hl), M_bind_ok (setSp_run _ _),
    M_bind_ok (setCcr_run _ _)]
  rfl

theorem exec_nop {s : State} (hu : untraced s = true) : exec .nop s = .next (s.finished 1 s.flush) :=
  runInstr_next (body := do flushPipeline; return .next) hu rfl

/-- Settles O44: each form by its own equation above. -/
theorem callAndReturnForms : Obligations.CallAndReturnForms := by
  refine ⟨fun s ea d hu => ⟨exec_jmp hu, exec_jsr hu, fun hp hf => ?_⟩, fun s d hu => ⟨fun hr => ?_, exec_rtr hu, ?_⟩⟩
  · rw [exec_bsr hu hp hf]
    cases d <;> rfl
  · exact ⟨exec_rts hu hr, exec_rtd d hu hr⟩
  · exact exec_nop hu

end Sys2Proof.Machine

/-! ## The scheduler and the events of the host (10_state.md R42, R43, 70_reset_and_hazards.md R517) -/

namespace Sys2Proof.Machine

section

variable {s : State} {i : CtxId}

theorem mem_readyList : i ∈ readyList s ↔ s.ctxs[i.val].run = .ready := by
  have all : i ∈ ([0, 1, 2, 3, 4] : List CtxId) := by revert i; decide
  simp only [readyList, List.mem_filter, all, true_and, beq_iff_eq]

theorem chooseCtx_master (h : s.ctxs[0].run = .ready) : chooseCtx s = some 0 := if_pos h

/-- The scheduler chooses a READY context. -/
theorem chooseCtx_ready (h : chooseCtx s = some i) : s.ctxs[i.val].run = .ready := by
  unfold chooseCtx at h
  split at h
  · next master => cases h; exact master
  · exact mem_readyList.1 (List.mem_of_getElem? h)

/-- It chooses none exactly where none is READY: the free choice is taken modulo the number of READY contexts. -/
theorem chooseCtx_eq_none_iff : chooseCtx s = none ↔ ∀ j : Fin 5, s.ctxs[j.val].run ≠ .ready := by
  constructor
  · intro h j hj
    unfold chooseCtx at h
    split at h
    · cases h
    · have nonempty : 0 < (readyList s).length := List.length_pos_of_mem (mem_readyList.2 hj)
      exact absurd (List.getElem?_eq_none_iff.1 h) (Nat.not_le.2 (Nat.mod_lt _ nonempty))
  · intro none_ready
    cases h : chooseCtx s with
    | none => rfl
    | some j => exact absurd (chooseCtx_ready h) (none_ready j)

theorem reschedule_of_none (h : chooseCtx s = none) : reschedule s = s := by
  unfold reschedule
  rw [h]

theorem reschedule_cur (h : chooseCtx s = some i) : (reschedule s).cur = i := by
  unfold reschedule
  rw [h]
  dsimp only
  split
  · next same => exact same.symm
  · rfl

end

/-- The scheduler changes no context. -/
@[simp] theorem reschedule_ctxs (s : State) : (reschedule s).ctxs = s.ctxs := by
  unfold reschedule
  split
  · rfl
  · split <;> rfl

@[simp] theorem reschedule_mem (s : State) : (reschedule s).mem = s.mem := by
  unfold reschedule
  split
  · rfl
  · split <;> rfl

/-- Whenever a context is READY, a READY one runs after the scheduler. -/
theorem reschedule_ready {s : State} (h : ∃ j : Fin 5, s.ctxs[j.val].run = .ready) :
    (reschedule s).ctxs[(reschedule s).cur.val].run = .ready := by
  obtain ⟨j, hj⟩ := h
  cases hc : chooseCtx s with
  | none => exact absurd hj (chooseCtx_eq_none_iff.1 hc j)
  | some i => simpa only [reschedule_ctxs, reschedule_cur hc] using chooseCtx_ready hc

/-! ### Events -/

theorem applyEvent_markReady {s : State} {i : CtxId} (h : s.ctxs[i.val].run = .notReady) :
    applyEvent s (.markReady i) = wakeCtx i s := if_pos h

theorem applyEvent_markReady_other {s : State} {i : CtxId} (h : s.ctxs[i.val].run ≠ .notReady) :
    applyEvent s (.markReady i) = s := if_neg h

/-- The debugger's flag cleared and the context woken are one replacement of the context. -/
theorem applyEvent_clearJtagHalt {s : State} {i : CtxId} (hj : s.ctxs[i.val].jtagHalt = true)
    (hr : s.ctxs[i.val].run = .halted) : applyEvent s (.clearJtagHalt i) =
      reschedule { s with ctxs := s.ctxs.set i.val { s.ctxs[i.val] with jtagHalt := false, run := .ready } } := by
  simp [applyEvent, hj, hr, wakeCtx, State.setRun]

theorem applyEvent_clearJtagHalt_clear {s : State} {i : CtxId} (hj : s.ctxs[i.val].jtagHalt = false) :
    applyEvent s (.clearJtagHalt i) = s := by simp [applyEvent, hj]

/-- A request is pending once (log 23). -/
theorem applyEvent_irq_pending {s : State} {r : IrqReq} (h : r ∈ s.irqs) : applyEvent s (.irq r) = s :=
  if_pos (List.contains_iff_mem.2 h)

theorem applyEvent_irq_new {s : State} {r : IrqReq} (h : r ∉ s.irqs) :
    applyEvent s (.irq r) = { s with irqs := r :: s.irqs } := if_neg fun e => h (List.contains_iff_mem.1 e)

theorem applyEvent_irq (s : State) (r : IrqReq) : { applyEvent s (.irq r) with irqs := s.irqs } = s ∧
    ∀ q, q ∈ (applyEvent s (.irq r)).irqs ↔ q = r ∨ q ∈ s.irqs := by
  by_cases h : r ∈ s.irqs
  · rw [applyEvent_irq_pending h]
    exact ⟨rfl, fun q => ⟨.inr, fun hq => hq.elim (fun e => e ▸ h) id⟩⟩
  · rw [applyEvent_irq_new h]
    exact ⟨rfl, fun _ => List.mem_cons⟩

theorem applyEvent_dropIrq (s : State) (r : IrqReq) : { applyEvent s (.dropIrq r) with irqs := s.irqs } = s ∧
    ∀ q, q ∈ (applyEvent s (.dropIrq r)).irqs ↔ q ≠ r ∧ q ∈ s.irqs :=
  ⟨rfl, fun q => by simp [applyEvent, List.mem_filter, and_comm]⟩

theorem applyEvent_busWrite {s : State} {a : Long} (v : Byte) (hd : hasDevice s.params = true)
    (hk : kindAt s.params a.toNat = .ram) : applyEvent s (.busWrite a v) = s.storeByte a.toNat v :=
  if_pos (by rw [hd, hk]; rfl)

theorem applyEvent_busWrite_other {s : State} {a : Long} (v : Byte)
    (h : hasDevice s.params = false ∨ kindAt s.params a.toNat ≠ .ram) : applyEvent s (.busWrite a v) = s :=
  if_neg (by rcases h with h | h <;> simp [h])

/-- A byte stored outside rom reads back. -/
theorem State.storeByte_byteAt_same {s : State} {a : Nat} (v : Byte) (h : kindAt s.params a ≠ .rom) :
    (s.storeByte a v).byteAt a = v := by
  rw [State.byteAt, State.storeByte_params, State.storeByte_get, if_pos ⟨rfl, h⟩]

/-- One stored byte changes no byte elsewhere. -/
theorem State.storeByte_sameMemoryOutside (s : State) (a : Long) (v : Byte) :
    sameMemoryOutside s (s.storeByte a.toNat v) a 1 := fun b hb => by
  rw [State.storeByte_get, if_neg fun e => hb 0 Nat.one_pos e.1]

/-- Settles O51: the scheduler by what `chooseCtx` chooses, each event by its own equation above. -/
theorem schedulerChoosesReady : Obligations.SchedulerChoosesReady := by
  refine ⟨fun s => ⟨reschedule_ready, fun h => reschedule_cur (chooseCtx_master h), reschedule_ctxs s,
    reschedule_mem s, fun h => reschedule_of_none (chooseCtx_eq_none_iff.2 h)⟩, fun s i r a v => ?_⟩
  refine ⟨applyEvent_markReady, applyEvent_markReady_other, applyEvent_clearJtagHalt, applyEvent_clearJtagHalt_clear,
    applyEvent_irq s r, applyEvent_dropIrq s r, fun hd hk => ?_, applyEvent_busWrite_other v⟩
  rw [applyEvent_busWrite v hd hk]
  exact ⟨State.storeByte_byteAt_same v (by rw [hk]; decide), State.storeByte_sameMemoryOutside s a v⟩

end Sys2Proof.Machine

/-! ## The status register (10_state.md R26 to R29, 48_system_control.md R381 to R388) -/

namespace Sys2Proof.Machine

/-! ### The places of SR_LAYOUT -/

/-- Each field of SR_LAYOUT: its bit of the high byte of the word software sees, and its bit in the stored register. -/
def srPlaces (l : SrLayout) : List (Fin 8 × Nat) :=
  [(l.t1, 15), (l.t0, 14), (l.s, 13), (l.i2, 10), (l.i1, 9), (l.i0, 8)]

/-- A property of every field is a property of the six. -/
theorem forall_srPlaces {l : SrLayout} {p : Fin 8 × Nat → Prop} : (∀ f ∈ srPlaces l, p f) ↔
    p (l.t1, 15) ∧ p (l.t0, 14) ∧ p (l.s, 13) ∧ p (l.i2, 10) ∧ p (l.i1, 9) ∧ p (l.i0, 8) := by
  simp only [srPlaces, List.forall_mem_cons, List.not_mem_nil, false_implies, implies_true, and_true]

/-- Two status words without unimplemented bits are equal when their fields and condition codes are. -/
theorem eq_of_srPlaces (l : SrLayout) {x y : Word} (hx : x &&& srImplemented = x) (hy : y &&& srImplemented = y)
    (hfields : ∀ f ∈ srPlaces l, x.getLsbD f.2 = y.getLsbD f.2) (hccr : ∀ i < 5, x.getLsbD i = y.getLsbD i) :
    x = y := by
  obtain ⟨h15, h14, h13, h10, h9, h8⟩ := forall_srPlaces.1 hfields
  have implemented : ∀ i < 16, srImplemented.getLsbD i = true → i < 5 ∨ i ∈ [15, 14, 13, 10, 9, 8] := by decide
  rw [← hx, ← hy]
  refine BitVec.eq_of_getLsbD_eq fun i hi => ?_
  rw [BitVec.getLsbD_and, BitVec.getLsbD_and]
  cases himp : srImplemented.getLsbD i with
  | false => simp
  | true =>
    rcases implemented i hi himp with low | field
    · rw [hccr i low]
    · simp only [List.mem_cons, List.not_mem_nil, or_false] at field
      rcases field with rfl | rfl | rfl | rfl | rfl | rfl <;> simp only [*]

theorem srUnpack_place (l : SrLayout) (v : Word) :
    ∀ f ∈ srPlaces l, (srUnpack l v).getLsbD f.2 = v.getLsbD (8 + f.1.val) :=
  forall_srPlaces.2 ⟨srUnpack_getLsbD l v (i := 15) (by decide), srUnpack_getLsbD l v (i := 14) (by decide),
    srUnpack_getLsbD l v (i := 13) (by decide), srUnpack_getLsbD l v (i := 10) (by decide),
    srUnpack_getLsbD l v (i := 9) (by decide), srUnpack_getLsbD l v (i := 8) (by decide)⟩

theorem srUnpack_ccr (l : SrLayout) (v : Word) {i : Nat} (h : i < 5) : (srUnpack l v).getLsbD i = v.getLsbD i := by
  rw [srUnpack_getLsbD l v (by omega)]
  simp only [show i ≠ 15 by omega, show i ≠ 14 by omega, show i ≠ 13 by omega, show i ≠ 10 by omega,
    show i ≠ 9 by omega, show i ≠ 8 by omega, if_false, h, decide_true, Bool.true_and]

/-- In the low byte software sees the condition codes alone. -/
theorem srPack_low (l : SrLayout) (v : Word) {i : Nat} (h : i < 8) :
    (srPack l v).getLsbD i = (decide (i < 5) && v.getLsbD i) := by
  have away : ∀ p : Fin 8, decide (i = 8 + p.val) = false := fun p => decide_eq_false (by omega)
  simp only [srPack_getLsbD l v (show i < 16 by omega), away, Bool.false_and, Bool.false_or]

/-- In the high byte software sees at a place the fields that stand there. -/
theorem srPack_high (l : SrLayout) (v : Word) (p : Fin 8) :
    (srPack l v).getLsbD (8 + p.val) =
      ((decide (p = l.t1) && v.getLsbD 15) || (decide (p = l.t0) && v.getLsbD 14) ||
        (decide (p = l.s) && v.getLsbD 13) || (decide (p = l.i2) && v.getLsbD 10) ||
        (decide (p = l.i1) && v.getLsbD 9) || (decide (p = l.i0) && v.getLsbD 8)) := by
  have place : ∀ q : Fin 8, (8 + p.val = 8 + q.val) = (p = q) := fun q => by
    rw [Nat.add_left_cancel_iff, Fin.val_inj]
  have high : decide (8 + p.val < 5) = false := decide_eq_false (by omega)
  simp only [srPack_getLsbD l v (show 8 + p.val < 16 by omega), place, high, Bool.false_and, Bool.or_false]

theorem srPack_place {l : SrLayout} (h : l.distinct = true) (v : Word) :
    ∀ f ∈ srPlaces l, (srPack l v).getLsbD (8 + f.1.val) = v.getLsbD f.2 := by
  have nodup := of_decide_eq_true h
  simp only [List.nodup_cons, List.mem_cons, List.not_mem_nil, or_false, not_or] at nodup
  refine forall_srPlaces.2 ?_
  refine ⟨?_, ?_, ?_, ?_, ?_, ?_⟩ <;> simp [srPack_high, nodup, Ne.symm]

theorem srPack_no_place {l : SrLayout} (v : Word) {p : Fin 8} (h : p ∉ (srPlaces l).map Prod.fst) :
    (srPack l v).getLsbD (8 + p.val) = false := by
  simp only [srPlaces, List.map_cons, List.map_nil, List.mem_cons, List.not_mem_nil, or_false, not_or] at h
  simp only [srPack_high, h, decide_false, Bool.false_and, Bool.or_false]

theorem masked_masked (v : Word) : v &&& srImplemented &&& srImplemented = v &&& srImplemented := by
  rw [BitVec.and_assoc, BitVec.and_self]

theorem masked_place (l : SrLayout) (v : Word) :
    ∀ f ∈ srPlaces l, (v &&& srImplemented).getLsbD f.2 = v.getLsbD f.2 :=
  forall_srPlaces.2 (by simp [srImplemented])

theorem masked_ccr (v : Word) {i : Nat} (h : i < 5) : (v &&& srImplemented).getLsbD i = v.getLsbD i := by
  have set : ∀ j < 5, srImplemented.getLsbD j = true := by decide
  rw [BitVec.getLsbD_and, set i h, Bool.and_true]

/-- What is written as it was read leaves the implemented bits. -/
theorem srUnpack_srPack {l : SrLayout} (h : l.distinct = true) (v : Word) :
    srUnpack l (srPack l v) = v &&& srImplemented :=
  eq_of_srPlaces l (srUnpack_masked l _) (masked_masked v)
    (fun f hf => (srUnpack_place l _ f hf).trans ((srPack_place h v f hf).trans (masked_place l v f hf).symm))
    fun i hi => by
      rw [srUnpack_ccr l _ hi, srPack_low l v (by omega), decide_eq_true hi, Bool.true_and, masked_ccr v hi]

/-- Under the default layout the fields stand where they are kept. -/
theorem srUnpack_default (v : Word) : srUnpack .default v = v &&& srImplemented :=
  eq_of_srPlaces .default (srUnpack_masked _ v) (masked_masked v)
    (fun f hf => by
      have kept : ∀ g ∈ srPlaces .default, 8 + g.1.val = g.2 := by decide
      rw [srUnpack_place .default v f hf, kept f hf, masked_place .default v f hf])
    fun _ hi => (srUnpack_ccr _ v hi).trans (masked_ccr v hi).symm

theorem srPack_default (v : Word) : srPack .default v = v &&& srImplemented := srUnpack_default v

/-! ### Operations on CCR and SR -/

/-- The condition codes read back from their five bits. -/
theorem Ccr.ofWord_bits (f : Ccr) : Ccr.ofWord (f.bits.setWidth 16) = f := by
  obtain ⟨x, n, z, v, c⟩ := f
  cases x <;> cases n <;> cases z <;> cases v <;> cases c <;> rfl

/-- A bitwise operation on words is the same operation on each condition code. -/
theorem Ccr.ofWord_bitwise {g : Word → Word → Word} {op : Bool → Bool → Bool}
    (hg : ∀ x y i, (g x y).getLsbD i = op (x.getLsbD i) (y.getLsbD i)) (f : Ccr) (b : Byte) :
    Ccr.ofWord (g (f.bits.setWidth 16) (b.setWidth 16)) =
      { x := op f.x (b.getLsbD 4), n := op f.n (b.getLsbD 3), z := op f.z (b.getLsbD 2), v := op f.v (b.getLsbD 1),
        c := op f.c (b.getLsbD 0) } := by
  have codes : ∀ x y : Word, Ccr.ofWord (g x y) =
      { x := op (Ccr.ofWord x).x (y.getLsbD 4), n := op (Ccr.ofWord x).n (y.getLsbD 3)
        z := op (Ccr.ofWord x).z (y.getLsbD 2), v := op (Ccr.ofWord x).v (y.getLsbD 1)
        c := op (Ccr.ofWord x).c (y.getLsbD 0) } := fun x y => by simp only [Ccr.ofWord, hg]
  simp only [codes, Ccr.ofWord_bits, BitVec.getLsbD_setWidth, Nat.reduceLT, decide_true, Bool.true_and]

/-- ANDI, EORI, ORI to CCR (R381 to R383). -/
theorem opImmToCcr_run {g : Word → Word → Word} {op : Bool → Bool → Bool}
    (hg : ∀ x y i, (g x y).getLsbD i = op (x.getLsbD i) (y.getLsbD i)) {s : State} (b : Byte)
    (hu : untraced s = true) (hf : fetchable s 0 1 = true) :
    opImmToCcr g b s =
      let f := s.ctx.ccr
      .next (s.finished 2 (s.flush.withCcr
        { x := op f.x (b.getLsbD 4), n := op f.n (b.getLsbD 3), z := op f.z (b.getLsbD 2), v := op f.v (b.getLsbD 1),
          c := op f.c (b.getLsbD 0) })) := by
  refine runInstr_next hu ?_
  rw [M_bind_ok (touchExt_run hf), M_bind_ok (flushPipeline_run s), M_bind_ok (getCcr_run _),
    ← Ccr.ofWord_bitwise hg]
  rfl

theorem exec_moveToCcr {s : State} {src : EA} (hu : untraced s = true) (hr : sourceReady s src .w 0 = true) :
    exec (.moveToCcr src) s =
      let p := placeOf s src .w 0
      .next (s.finished (1 + src.extWords .w) ((s.bump p).flush.withCcr
        (Ccr.ofWord ((valueAt s .w p.loc).setWidth 16)))) := by
  refine runInstr_next hu ?_
  rw [M_bind_ok (readEA_run hr), M_bind_ok (flushPipeline_run _)]
  rfl

theorem writeSr_run {s : State} {v : Word} (h : srWritable s v = true) : writeSr v s = .ok () (s.withSr v) := by
  rw [writeSr, M_bind_guard, if_neg]
  · rfl
  · rintro ⟨refuse, traced⟩
    simp [srWritable, refuse, traced] at h

theorem writeSr_stop {s : State} {v : Word} (h : srWritable s v = false) :
    writeSr v s = .error (.refuse .traceBits) s := by
  rw [writeSr, M_bind_guard, if_pos]
  simpa [srWritable] using h

/-- ANDI, EORI, ORI to SR (R384 to R386) with a value that TRACE_POLICY lets them write, and with another one. -/
theorem opImmToSr_run {s : State} (g : Word → Word → Word) (w : Word) (hu : untraced s = true)
    (hf : fetchable s 0 1 = true) (hs : srS s.ctx.sr = true) :
    (srWritable s (g s.srWord w) = true →
      opImmToSr g w s = .next (s.finished 2 (s.flush.withSr (g s.srWord w)))) ∧
    (srWritable s (g s.srWord w) = false → opImmToSr g w s = .refused .traceBits) := by
  refine ⟨fun hw => runInstr_ok (f := .srWritten) hu ?_, fun hw => runInstr_refused (t := s.flush) ?_⟩ <;>
    rw [M_bind_ok (requireSupervisor_run hs), M_bind_ok (touchExt_run hf), M_bind_ok (flushPipeline_run s), M_bind_read]
  · exact M_bind_ok (writeSr_run (s := s.flush) hw) _
  · exact M_bind_error (writeSr_stop (s := s.flush) hw) _

/-- Settles O46: the layout by the bits of `srPack` and `srUnpack`, each form by its own equation above. -/
theorem statusForms : Obligations.StatusForms := by
  refine ⟨fun l v => ⟨srUnpack_place l v, fun i hi => ⟨srUnpack_ccr l v hi, ?_⟩, srUnpack_masked l v,
    fun hd => ⟨srPack_place hd v, srUnpack_srPack hd v⟩, fun p => srPack_no_place v, fun i hlo hhi => ?_,
    srPack_default v, srUnpack_default v⟩, fun s b w src hu => ⟨fun hf => ?_, exec_moveToCcr hu, fun hf hs => ?_⟩⟩
  · rw [srPack_low l v (by omega), decide_eq_true hi, Bool.true_and]
  · rw [srPack_low l v hhi, decide_eq_false (by omega), Bool.false_and]
  · simp only [List.forall_mem_cons, List.not_mem_nil, false_implies, implies_true, and_true]
    exact ⟨opImmToCcr_run (fun _ _ _ => BitVec.getLsbD_and) b hu hf,
      opImmToCcr_run (fun _ _ _ => BitVec.getLsbD_xor) b hu hf, opImmToCcr_run (fun _ _ _ => BitVec.getLsbD_or) b hu hf⟩
  · simp only [List.forall_mem_cons, List.not_mem_nil, false_implies, implies_true, and_true]
    exact ⟨opImmToSr_run (· &&& ·) w hu hf hs, opImmToSr_run (· ^^^ ·) w hu hf hs, opImmToSr_run (· ||| ·) w hu hf hs⟩

end Sys2Proof.Machine

/-! ## What every instruction keeps

`M.Keeps` says what a computation keeps. `Leads P Q f` says that an instruction `f` which begins in a state with `P`
gives only states with `Q`. From `StepClosed P Q` each shape of the files 40 to 47 leads from P to Q, from
`SystemClosed P Q` each shape of the files 48 and 49 but TRAPX, and so `exec` of every other instruction. -/

namespace Sys2Proof.Machine

/-- An instruction that begins in a state with `P` gives only next states with `Q`. -/
def Leads (P Q : State → Prop) (f : State → Step) : Prop := ∀ s t, P s → f s = .next t → Q t

/-- `P` survives each primitive update of an instruction, and `Q` holds of what it leaves, before and after the
scheduler has had its say. -/
structure StepClosed (P Q : State → Prop) : Prop extends Closed P where
  done : ∀ s, P s → Q s
  rescheduled : ∀ s, P s → Q (reschedule s)

/-- `P` survives also the updates that only system instructions make. The stop of every context by STOP is left out:
`leads_exec` asks for it where the instruction is STOP. -/
structure SystemClosed (P Q : State → Prop) : Prop extends StepClosed P Q where
  sr : ∀ s v, P s → P (s.withSr v)
  usp : ∀ s v, P s → P (s.withCtx { s.ctx with usp := v })
  vbr : ∀ s v, P s → P (s.withCtx { s.ctx with vbr := v })
  sfc : ∀ s v, P s → P (s.withCtx { s.ctx with sfc := fcMask s.params v })
  dfc : ∀ s v, P s → P (s.withCtx { s.ctx with dfc := fcMask s.params v })
  fcr : ∀ s c, P s → P { s with fcr := c }
  extRegs : ∀ s code v, P s → P { s with extRegs := writeExt s.extRegs code v }
  sleep : ∀ s, P s → P (s.withCtx { s.ctx with run := .notReady })
  halt : ∀ s, P s → P (s.withCtx { s.ctx with jtagHalt := true, run := .halted })
  lpStop : ∀ s, P s → P { s with cpu := .lpStopped }

section

variable {P Q : State → Prop} {α β : Type}

/-! ### Conditionals with a common continuation -/

theorem keeps_ite_then {c : Prop} [Decidable c] {x : M Unit} {f : Unit → M β} (hx : x.Keeps P)
    (hf : ∀ u, (f u).Keeps P) : (if c then x >>= f else f ()).Keeps P := keeps_ite (keeps_bind hx hf) (hf ())

theorem keeps_ite_else {c : Prop} [Decidable c] {x : M Unit} {f : Unit → M β} (hx : x.Keeps P)
    (hf : ∀ u, (f u).Keeps P) : (if c then f () else x >>= f).Keeps P := keeps_ite (hf ()) (keeps_bind hx hf)

theorem keeps_ite_both {c : Prop} [Decidable c] {x y : M α} {f : α → M β} (hx : x.Keeps P) (hy : y.Keeps P)
    (hf : ∀ a, (f a).Keeps P) : (if c then x >>= f else y >>= f).Keeps P :=
  keeps_ite (keeps_bind hx hf) (keeps_bind hy hf)

theorem keeps_pureAlu (f : Alu) (s d : Long) (c : Ccr) : (pureAlu f s d c).Keeps P := keeps_pure _

/-- An instruction the model refuses gives no next state. -/
theorem leads_refuseWith (r : Refusal) : Leads P Q (refuseWith r) := fun _ _ _ hx => nomatch hx

section

variable (h : StepClosed P Q)
include h

/-- An instruction leads from P to Q where its body keeps P. -/
theorem leads_runInstr {words : Nat} {body : State → M Flow} (hb : ∀ s, (body s).Keeps P) :
    Leads P Q fun s => runInstr words (body s) s :=
  fun s _ hs hx => keeps_runInstr h.toClosed h.done h.rescheduled words hs hx (hb s)

/-! ### Data movement (40_data_movement.md) -/

theorem leads_opMove (sz : Size) (src dst : EA) : Leads P Q (opMove sz src dst) :=
  leads_runInstr h fun _ => keeps_bind (keeps_readEA h.toClosed _ _ _) fun v =>
    have rest : ∀ v, (do writeEA dst sz (src.extWords sz) v; setLogicFlags sz v; return .next : M Flow).Keeps P :=
      fun _ => keeps_bind (keeps_writeEA h.toClosed _ _ _ _) fun _ =>
        keeps_bind (keeps_setLogicFlags h.toClosed _ _) fun _ => keeps_pure _
    keeps_ite (keeps_bind (keeps_refuseUndefined _) fun _ => keeps_bind (keeps_drawSized h.toClosed _) rest) (rest v)

theorem leads_opMovea (sz : Size) (src : EA) (r : BitVec 3) : Leads P Q (opMovea sz src r) :=
  leads_runInstr h fun _ => keeps_bind (keeps_readEA h.toClosed _ _ _) fun _ =>
    keeps_bind (keeps_setA h.toClosed _ _) fun _ => keeps_pure _

theorem leads_opMoveq (r : BitVec 3) (d : Byte) : Leads P Q (opMoveq r d) :=
  leads_runInstr h fun _ => keeps_bind (keeps_setD h.toClosed _ _ _) fun _ =>
    keeps_bind (keeps_setLogicFlags h.toClosed _ _) fun _ => keeps_pure _

theorem leads_opMovemStore (sz : Size) (mask : Word) (ea : EA) : Leads P Q (opMovemStore sz mask ea) := by
  refine leads_runInstr h fun _ => keeps_bind (keeps_touchExt _ _) fun _ => ?_
  split
  · exact keeps_bind (keeps_getA _) fun _ => keeps_bind (keeps_storeDown h.toClosed _ _ _ _ _) fun _ =>
      keeps_bind (keeps_setA h.toClosed _ _) fun _ => keeps_pure _
  · exact keeps_bind (keeps_addrEA _ _) fun _ => keeps_bind (keeps_storeUp h.toClosed _ _ _) fun _ => keeps_pure _

theorem leads_opMovemLoad (sz : Size) (mask : Word) (ea : EA) : Leads P Q (opMovemLoad sz mask ea) := by
  refine leads_runInstr h fun _ => keeps_bind (keeps_touchExt _ _) fun _ => ?_
  split
  · refine keeps_bind (keeps_getA _) fun _ => keeps_bind (keeps_loadPostinc h.toClosed _ _ _ _ _) fun r =>
      keeps_bind (keeps_read _) fun policy => ?_
    split <;> exact keeps_bind (keeps_setA h.toClosed _ _) fun _ => keeps_pure _
  · exact keeps_bind (keeps_addrEA _ _) fun _ => keeps_bind (keeps_loadUp h.toClosed _ _ _) fun _ => keeps_pure _

theorem leads_opMovepStoreW (x y : BitVec 3) (d : Word) : Leads P Q (opMovepStoreW x y d) :=
  leads_runInstr h fun _ => keeps_bind (keeps_movepAddr _ _) fun _ => keeps_bind (keeps_getD _) fun _ =>
    keeps_bind (keeps_storeAlternate h.toClosed _ _) fun _ => keeps_pure _

theorem leads_opMovepStoreL (x y : BitVec 3) (d : Word) : Leads P Q (opMovepStoreL x y d) :=
  leads_runInstr h fun _ => keeps_bind (keeps_movepAddr _ _) fun _ => keeps_bind (keeps_getD _) fun _ =>
    keeps_bind (keeps_storeAlternate h.toClosed _ _) fun _ => keeps_pure _

theorem leads_opMovepLoadW (x y : BitVec 3) (d : Word) : Leads P Q (opMovepLoadW x y d) :=
  leads_runInstr h fun _ => keeps_bind (keeps_movepAddr _ _) fun _ => keeps_bind (keeps_loadAlternate _ _ _) fun _ =>
    keeps_bind (keeps_setD h.toClosed _ _ _) fun _ => keeps_pure _

theorem leads_opMovepLoadL (x y : BitVec 3) (d : Word) : Leads P Q (opMovepLoadL x y d) :=
  leads_runInstr h fun _ => keeps_bind (keeps_movepAddr _ _) fun _ => keeps_bind (keeps_loadAlternate _ _ _) fun _ =>
    keeps_bind (keeps_setD h.toClosed _ _ _) fun _ => keeps_pure _

theorem leads_opExg (k1 k2 : BitVec 4) : Leads P Q (opExg k1 k2) :=
  leads_runInstr h fun _ => keeps_bind (keeps_getR _) fun _ => keeps_bind (keeps_getR _) fun _ =>
    keeps_bind (keeps_setR h.toClosed _ _) fun _ => keeps_bind (keeps_setR h.toClosed _ _) fun _ => keeps_pure _

theorem leads_opLea (r : BitVec 3) (ea : EA) : Leads P Q (opLea r ea) :=
  leads_runInstr h fun _ => keeps_bind (keeps_addrEA _ _) fun _ =>
    keeps_bind (keeps_setA h.toClosed _ _) fun _ => keeps_pure _

theorem leads_opPea (ea : EA) : Leads P Q (opPea ea) :=
  leads_runInstr h fun _ => keeps_bind (keeps_addrEA _ _) fun _ =>
    keeps_bind (keeps_push h.toClosed _ _) fun _ => keeps_pure _

theorem leads_opLink (n : Nat) (r : BitVec 3) (d : Long) : Leads P Q (opLink n r d) :=
  leads_runInstr h fun _ => keeps_ite_then (keeps_refuse _) fun _ => keeps_bind (keeps_touchExt _ _) fun _ =>
    keeps_bind (keeps_getA _) fun _ => keeps_bind (keeps_push h.toClosed _ _) fun _ => keeps_bind keeps_getSp fun _ =>
      keeps_bind (keeps_setA h.toClosed _ _) fun _ => keeps_bind (keeps_setSp h.toClosed _) fun _ => keeps_pure _

theorem leads_opUnlk (r : BitVec 3) : Leads P Q (opUnlk r) :=
  leads_runInstr h fun _ => keeps_ite_then (keeps_refuse _) fun _ => keeps_bind (keeps_getA _) fun _ =>
    keeps_bind (keeps_memRead _ _) fun _ => keeps_bind (keeps_setA h.toClosed _ _) fun _ =>
      keeps_bind (keeps_setSp h.toClosed _) fun _ => keeps_pure _

/-! ### Arithmetic and logic (41_integer_arithmetic.md, 43_logic.md) -/

theorem leads_opImmToEa (f : Size → Alu) (sz : Size) (imm : Long) (dst : EA) : Leads P Q (opImmToEa f sz imm dst) :=
  leads_runInstr h fun _ => keeps_bind (keeps_touchExt _ _) fun _ =>
    keeps_bind (keeps_modifyEA h.toClosed _ _ _ (keeps_pureAlu _ _)) fun _ => keeps_pure _

theorem leads_opImmCompare (sz : Size) (imm : Long) (dst : EA) : Leads P Q (opImmCompare sz imm dst) :=
  leads_runInstr h fun _ => keeps_bind (keeps_touchExt _ _) fun _ => keeps_bind (keeps_readEA h.toClosed _ _ _) fun _ =>
    keeps_bind keeps_getCcr fun _ => keeps_bind (keeps_setCcr h.toClosed _) fun _ => keeps_pure _

theorem leads_opEaToDn (f : Size → Alu) (sz : Size) (r : BitVec 3) (src : EA) : Leads P Q (opEaToDn f sz r src) :=
  leads_runInstr h fun _ => keeps_bind (keeps_readEA h.toClosed _ _ _) fun _ => keeps_bind (keeps_readLoc _ _) fun _ =>
    keeps_bind keeps_getCcr fun _ => keeps_bind (keeps_setD h.toClosed _ _ _) fun _ =>
      keeps_bind (keeps_setCcr h.toClosed _) fun _ => keeps_pure _

theorem leads_opDnToEa (f : Size → Alu) (sz : Size) (r : BitVec 3) (dst : EA) : Leads P Q (opDnToEa f sz r dst) :=
  leads_runInstr h fun _ => keeps_bind (keeps_readLoc _ _) fun _ =>
    keeps_bind (keeps_modifyEA h.toClosed _ _ _ (keeps_pureAlu _ _)) fun _ => keeps_pure _

theorem leads_opSingle (f : Size → Alu) (sz : Size) (dst : EA) : Leads P Q (opSingle f sz dst) :=
  leads_runInstr h fun _ => keeps_bind (keeps_modifyEA h.toClosed _ _ _ (keeps_pureAlu _ _)) fun _ => keeps_pure _

theorem leads_opClr (sz : Size) (dst : EA) : Leads P Q (opClr sz dst) :=
  leads_runInstr h fun _ => keeps_bind (keeps_writeEA h.toClosed _ _ _ _) fun _ =>
    keeps_bind (keeps_setLogicFlags h.toClosed _ _) fun _ => keeps_pure _

theorem leads_opAddressArith (g : Long → Long → Long) (sz : Size) (r : BitVec 3) (src : EA) :
    Leads P Q (opAddressArith g sz r src) :=
  leads_runInstr h fun _ => keeps_bind (keeps_readEA h.toClosed _ _ _) fun _ => keeps_bind (keeps_getA _) fun _ =>
    keeps_bind (keeps_setA h.toClosed _ _) fun _ => keeps_pure _

theorem leads_opQuick (f : Size → Alu) (g : Long → Long → Long) (sz : Size) (q : BitVec 3) (dst : EA) :
    Leads P Q (opQuick f g sz q dst) := by
  refine leads_runInstr h fun _ => ?_
  split
  · exact keeps_bind (keeps_getA _) fun _ => keeps_bind (keeps_setA h.toClosed _ _) fun _ => keeps_pure _
  · exact keeps_bind (keeps_modifyEA h.toClosed _ _ _ (keeps_pureAlu _ _)) fun _ => keeps_pure _

theorem leads_opExtended {f : Long → Long → Ccr → M (Long × Ccr)} (hf : ∀ s d c, (f s d c).Keeps P) (sz : Size)
    (x : BitVec 3) (mem : Bool) (y : BitVec 3) : Leads P Q (opExtended f sz x mem y) :=
  leads_runInstr h fun _ => keeps_bind (keeps_readEA h.toClosed _ _ _) fun _ =>
    keeps_bind (keeps_modifyEA h.toClosed _ _ _ (hf _)) fun _ => keeps_pure _

theorem leads_opExt (src dst : Size) (r : BitVec 3) : Leads P Q (opExt src dst r) :=
  leads_runInstr h fun _ => keeps_bind (keeps_getD _) fun _ => keeps_bind (keeps_setD h.toClosed _ _ _) fun _ =>
    keeps_bind (keeps_setLogicFlags h.toClosed _ _) fun _ => keeps_pure _

theorem leads_opCmp (sz : Size) (r : BitVec 3) (src : EA) : Leads P Q (opCmp sz r src) :=
  leads_runInstr h fun _ => keeps_bind (keeps_readEA h.toClosed _ _ _) fun _ => keeps_bind (keeps_getD _) fun _ =>
    keeps_bind keeps_getCcr fun _ => keeps_bind (keeps_setCcr h.toClosed _) fun _ => keeps_pure _

theorem leads_opCmpa (sz : Size) (r : BitVec 3) (src : EA) : Leads P Q (opCmpa sz r src) :=
  leads_runInstr h fun _ => keeps_bind (keeps_readEA h.toClosed _ _ _) fun _ => keeps_bind (keeps_getA _) fun _ =>
    keeps_bind keeps_getCcr fun _ => keeps_bind (keeps_setCcr h.toClosed _) fun _ => keeps_pure _

theorem leads_opCmpm (sz : Size) (x y : BitVec 3) : Leads P Q (opCmpm sz x y) :=
  leads_runInstr h fun _ => keeps_bind (keeps_readEA h.toClosed _ _ _) fun _ =>
    keeps_bind (keeps_readEA h.toClosed _ _ _) fun _ => keeps_bind keeps_getCcr fun _ =>
      keeps_bind (keeps_setCcr h.toClosed _) fun _ => keeps_pure _

theorem leads_opTst (sz : Size) (src : EA) : Leads P Q (opTst sz src) :=
  leads_runInstr h fun _ => keeps_bind (keeps_readEA h.toClosed _ _ _) fun _ =>
    keeps_bind (keeps_setLogicFlags h.toClosed _ _) fun _ => keeps_pure _

theorem leads_opCmp2 (sz : Size) (xr : BitVec 4) (rsv : BitVec 11) (ea : EA) : Leads P Q (opCmp2 sz xr rsv ea) :=
  leads_runInstr h fun _ => keeps_bind (keeps_specialWord _) fun _ => keeps_bind (keeps_addrEA _ _) fun _ =>
    keeps_bind (keeps_boundsFlags h.toClosed _ _ _) fun _ => keeps_pure _

/-! ### Multiply and divide (42_multiply_divide.md) -/

theorem leads_opMulW (signed : Bool) (r : BitVec 3) (src : EA) : Leads P Q (opMulW signed r src) :=
  leads_runInstr h fun _ => keeps_bind (keeps_readEA h.toClosed _ _ _) fun _ => keeps_bind (keeps_getD _) fun _ =>
    keeps_bind (keeps_setD h.toClosed _ _ _) fun _ => keeps_bind (keeps_setLogicFlags h.toClosed _ _) fun _ =>
      keeps_pure _

theorem leads_opMulL (signed : Bool) (r15 : BitVec 1) (l : BitVec 3) (quad : Bool) (rsv : BitVec 7) (dh : BitVec 3)
    (src : EA) : Leads P Q (opMulL signed r15 l quad rsv dh src) :=
  have flags : ∀ f, (do setCcr f; return .next : M Flow).Keeps P := fun _ =>
    keeps_bind (keeps_setCcr h.toClosed _) fun _ => keeps_pure _
  leads_runInstr h fun _ => keeps_bind (keeps_specialWord _) fun _ => keeps_ite_then (keeps_refuseUndefined _) fun _ =>
    keeps_bind (keeps_readEA h.toClosed _ _ _) fun _ => keeps_bind (keeps_getD _) fun _ =>
      keeps_bind keeps_getCcr fun _ =>
        keeps_ite (keeps_bind (keeps_setD h.toClosed _ _ _) fun _ => flags _)
          (keeps_ite
            (keeps_bind (keeps_draw h.toClosed) fun _ => keeps_bind (keeps_setD h.toClosed _ _ _) fun _ =>
              keeps_bind (keeps_drawBit h.toClosed) fun _ => keeps_bind (keeps_drawBit h.toClosed) fun _ =>
                keeps_bind (keeps_drawBit h.toClosed) fun _ => flags _)
            (keeps_bind (keeps_setD h.toClosed _ _ _) fun _ => keeps_bind (keeps_setD h.toClosed _ _ _) fun _ =>
              flags _))

theorem leads_opDivW (signed : Bool) (r : BitVec 3) (src : EA) : Leads P Q (opDivW signed r src) :=
  leads_runInstr h fun _ => keeps_bind (keeps_readEA h.toClosed _ _ _) fun _ => keeps_bind (keeps_getD _) fun _ =>
    keeps_bind (keeps_divide h.toClosed _ _ _ _ fun _ _ => keeps_setD h.toClosed _ _ _) fun _ => keeps_pure _

theorem leads_opDivL (signed : Bool) (r15 : BitVec 1) (q : BitVec 3) (quad : Bool) (rsv : BitVec 7) (r : BitVec 3)
    (src : EA) : Leads P Q (opDivL signed r15 q quad rsv r src) :=
  leads_runInstr h fun _ => keeps_bind (keeps_specialWord _) fun _ => keeps_ite_then (keeps_refuse _) fun _ =>
    keeps_bind (keeps_readEA h.toClosed _ _ _) fun _ => keeps_bind (keeps_getD _) fun _ =>
      keeps_bind (keeps_getD _) fun _ =>
        keeps_bind (keeps_divide h.toClosed _ _ _ _ fun _ _ =>
          keeps_ite_else (keeps_setD h.toClosed _ _ _) fun _ => keeps_setD h.toClosed _ _ _) fun _ => keeps_pure _

/-! ### Shifts, bits and decimals (44 to 46) -/

theorem leads_opShiftReg (k : Shift) (sz : Size) (count : BitVec 3) (byReg : Bool) (r : BitVec 3) :
    Leads P Q (opShiftReg k sz count byReg r) :=
  leads_runInstr h fun _ => keeps_bind (keeps_getD _) fun _ =>
    keeps_bind (keeps_modifyEAFlagsFirst h.toClosed _ _ _ _) fun _ => keeps_pure _

theorem leads_opShiftMem (k : Shift) (dst : EA) : Leads P Q (opShiftMem k dst) :=
  leads_runInstr h fun _ => keeps_bind (keeps_modifyEAFlagsFirst h.toClosed _ _ _ _) fun _ => keeps_pure _

theorem leads_opSwap (r : BitVec 3) : Leads P Q (opSwap r) :=
  leads_runInstr h fun _ => keeps_bind (keeps_getD _) fun _ => keeps_bind (keeps_setD h.toClosed _ _ _) fun _ =>
    keeps_bind (keeps_setLogicFlags h.toClosed _ _) fun _ => keeps_pure _

theorem leads_opBitStatic (g : Long → Nat → Long) (num : Byte) (ea : EA) : Leads P Q (opBitStatic g num ea) :=
  leads_runInstr h fun _ => keeps_bind (keeps_touchExt _ _) fun _ =>
    keeps_bind (keeps_bitModify h.toClosed _ _ _ _) fun _ => keeps_pure _

theorem leads_opBitDynamic (g : Long → Nat → Long) (r : BitVec 3) (ea : EA) : Leads P Q (opBitDynamic g r ea) :=
  leads_runInstr h fun _ => keeps_bind (keeps_getD _) fun _ =>
    keeps_bind (keeps_bitModify h.toClosed _ _ _ _) fun _ => keeps_pure _

theorem leads_opBtstStatic (num : Byte) (ea : EA) : Leads P Q (opBtstStatic num ea) :=
  leads_runInstr h fun _ => keeps_bind (keeps_touchExt _ _) fun _ =>
    keeps_bind (keeps_bitTest h.toClosed _ _ _) fun _ => keeps_pure _

theorem leads_opBtstDynamic (r : BitVec 3) (ea : EA) : Leads P Q (opBtstDynamic r ea) :=
  leads_runInstr h fun _ => keeps_bind (keeps_getD _) fun _ =>
    keeps_bind (keeps_bitTest h.toClosed _ _ _) fun _ => keeps_pure _

theorem leads_opTas (dst : EA) : Leads P Q (opTas dst) :=
  leads_runInstr h fun _ => keeps_bind (keeps_modifyEAFlagsFirst h.toClosed _ _ _ _) fun _ => keeps_pure _

theorem leads_opNbcd (dst : EA) : Leads P Q (opNbcd dst) :=
  leads_runInstr h fun _ =>
    keeps_bind (keeps_modifyEA h.toClosed _ _ _ fun _ _ => keeps_bcdSub h.toClosed _ _ _) fun _ => keeps_pure _

/-! ### Program control (47_program_control.md) -/

theorem leads_opBcc (cc : BitVec 4) (d : Disp) : Leads P Q (opBcc cc d) :=
  leads_runInstr h fun _ => keeps_bind keeps_getCcr fun _ =>
    keeps_ite (keeps_bind (keeps_branchTarget _) fun _ => keeps_pure _) (keeps_pure _)

theorem leads_opBra (d : Disp) : Leads P Q (opBra d) :=
  leads_runInstr h fun _ => keeps_bind (keeps_branchTarget _) fun _ => keeps_pure _

theorem leads_opBsr (d : Disp) : Leads P Q (opBsr d) :=
  leads_runInstr h fun _ => keeps_bind (keeps_nextAddr _) fun _ => keeps_bind (keeps_push h.toClosed _ _) fun _ =>
    keeps_bind (keeps_read _) fun _ => keeps_bind (keeps_branchTarget _) fun _ => keeps_pure _

theorem leads_opDbcc (cc : BitVec 4) (r : BitVec 3) (d : Word) : Leads P Q (opDbcc cc r d) :=
  leads_runInstr h fun _ => keeps_bind keeps_getCcr fun _ => keeps_ite (keeps_pure _) <|
    keeps_bind (keeps_getD _) fun _ => keeps_bind (keeps_setD h.toClosed _ _ _) fun _ =>
      keeps_ite (keeps_pure _) (keeps_bind (keeps_branchTarget _) fun _ => keeps_pure _)

theorem leads_opScc (cc : BitVec 4) (dst : EA) : Leads P Q (opScc cc dst) :=
  leads_runInstr h fun _ => keeps_bind keeps_getCcr fun _ =>
    keeps_bind (keeps_writeEA h.toClosed _ _ _ _) fun _ => keeps_pure _

theorem leads_opJmp (ea : EA) : Leads P Q (opJmp ea) :=
  leads_runInstr h fun _ => keeps_bind (keeps_addrEA _ _) fun _ => keeps_pure _

theorem leads_opJsr (ea : EA) : Leads P Q (opJsr ea) :=
  leads_runInstr h fun _ => keeps_bind (keeps_addrEA _ _) fun _ => keeps_bind (keeps_nextAddr _) fun _ =>
    keeps_bind (keeps_push h.toClosed _ _) fun _ => keeps_pure _

theorem leads_opRts : Leads P Q opRts :=
  leads_runInstr h fun _ => keeps_bind keeps_getSp fun _ => keeps_bind (keeps_memRead _ _) fun _ =>
    keeps_bind (keeps_setSp h.toClosed _) fun _ => keeps_pure _

theorem leads_opRtd (d : Word) : Leads P Q (opRtd d) :=
  leads_runInstr h fun _ => keeps_bind keeps_getSp fun _ => keeps_bind (keeps_memRead _ _) fun _ =>
    keeps_bind (keeps_touchExt _ _) fun _ => keeps_bind (keeps_setSp h.toClosed _) fun _ => keeps_pure _

theorem leads_opRtr : Leads P Q opRtr :=
  leads_runInstr h fun _ => keeps_bind keeps_getSp fun _ => keeps_bind (keeps_memRead _ _) fun _ =>
    keeps_bind (keeps_memRead _ _) fun _ => keeps_bind (keeps_setSp h.toClosed _) fun _ =>
      keeps_bind (keeps_setCcr h.toClosed _) fun _ => keeps_pure _

theorem leads_opNop : Leads P Q opNop :=
  leads_runInstr h fun _ => keeps_bind (keeps_flush h.toClosed) fun _ => keeps_pure _

/-! ### System instructions that change no system register (48_system_control.md, 49_trapping.md) -/

theorem leads_opImmToCcr (g : Word → Word → Word) (imm : Byte) : Leads P Q (opImmToCcr g imm) :=
  leads_runInstr h fun _ => keeps_bind (keeps_touchExt _ _) fun _ => keeps_bind (keeps_flush h.toClosed) fun _ =>
    keeps_bind keeps_getCcr fun _ => keeps_bind (keeps_setCcr h.toClosed _) fun _ => keeps_pure _

theorem leads_opMoveFromCcr (dst : EA) : Leads P Q (opMoveFromCcr dst) :=
  leads_runInstr h fun _ => keeps_bind keeps_getCcr fun _ =>
    keeps_bind (keeps_writeWordFlushing h.toClosed _ _) fun _ => keeps_pure _

theorem leads_opMoveToCcr (src : EA) : Leads P Q (opMoveToCcr src) :=
  leads_runInstr h fun _ => keeps_bind (keeps_readEA h.toClosed _ _ _) fun _ =>
    keeps_bind (keeps_flush h.toClosed) fun _ => keeps_bind (keeps_setCcr h.toClosed _) fun _ => keeps_pure _

theorem leads_opMoveFromSr (dst : EA) : Leads P Q (opMoveFromSr dst) :=
  leads_runInstr h fun _ => keeps_bind keeps_requireSupervisor fun _ => keeps_bind (keeps_read _) fun _ =>
    keeps_bind (keeps_writeWordFlushing h.toClosed _ _) fun _ => keeps_pure _

theorem keeps_movecReg (code : BitVec 12) : (movecReg code).Keeps P :=
  keeps_bind keeps_requireSupervisor fun _ => keeps_bind (keeps_touchExt _ _) fun _ =>
    keeps_bind (keeps_flush h.toClosed) fun _ => keeps_bind (keeps_read _) fun r =>
      match r with
      | some _ => keeps_pure _
      | none => keeps_raise _

theorem leads_opMovecFromCr (xr : BitVec 4) (code : BitVec 12) : Leads P Q (opMovecFromCr xr code) :=
  leads_runInstr h fun _ => keeps_bind (keeps_movecReg h _) fun _ => keeps_bind (keeps_read _) fun _ =>
    keeps_bind (keeps_setR h.toClosed _ _) fun _ => keeps_pure _

theorem leads_opMoveFromUsp (r : BitVec 3) : Leads P Q (opMoveFromUsp r) :=
  leads_runInstr h fun _ => keeps_bind keeps_requireSupervisor fun _ => keeps_bind (keeps_flush h.toClosed) fun _ =>
    keeps_bind (keeps_read _) fun _ => keeps_bind (keeps_setA h.toClosed _ _) fun _ => keeps_pure _

theorem leads_opMoves (sz : Size) (xr : BitVec 4) (toMem : Bool) (rsv : BitVec 11) (ea : EA) :
    Leads P Q (opMoves sz xr toMem rsv ea) :=
  leads_runInstr h fun _ => keeps_bind keeps_requireSupervisor fun _ => keeps_bind (keeps_specialWord _) fun _ =>
    keeps_bind (keeps_locate _ _ _) fun _ => keeps_bind (keeps_flush h.toClosed) fun _ =>
      keeps_ite
        (keeps_bind (keeps_movesValue h.toClosed _ _ _) fun _ => keeps_bind (keeps_writeLoc h.toClosed _ _ _) fun _ =>
          keeps_bind (keeps_commit h.toClosed _) fun _ => keeps_pure _)
        (keeps_bind (keeps_readLoc _ _) fun _ => keeps_bind (keeps_commit h.toClosed _) fun _ =>
          keeps_ite_both (keeps_setR h.toClosed _ _) (keeps_setD h.toClosed _ _ _) fun _ => keeps_pure _)

theorem leads_opReset : Leads P Q opReset :=
  leads_runInstr h fun _ => keeps_bind keeps_requireSupervisor fun _ => keeps_bind (keeps_flush h.toClosed) fun _ =>
    keeps_pure _

theorem leads_opTrapAlways (e : Exc) : Leads P Q (opTrapAlways e) := leads_runInstr h fun _ => keeps_raise _

theorem leads_opChk (sz : Size) (r : BitVec 3) (src : EA) : Leads P Q (opChk sz r src) :=
  have trap : ∀ f, (do setCcr f; M.raise .chk : M Flow).Keeps P := fun _ =>
    keeps_bind (keeps_setCcr h.toClosed _) fun _ => keeps_raise _
  leads_runInstr h fun _ => keeps_bind (keeps_readEA h.toClosed _ _ _) fun _ =>
    keeps_bind (keeps_flush h.toClosed) fun _ => keeps_bind (keeps_getD _) fun _ => keeps_bind keeps_getCcr fun _ =>
      keeps_bind (keeps_drawBit h.toClosed) fun _ => keeps_bind (keeps_drawBit h.toClosed) fun _ =>
        keeps_bind (keeps_drawBit h.toClosed) fun _ => keeps_ite (trap _) <| keeps_ite (trap _) <|
          keeps_bind (keeps_drawBit h.toClosed) fun _ => keeps_bind (keeps_setCcr h.toClosed _) fun _ => keeps_pure _

theorem leads_opChk2 (sz : Size) (xr : BitVec 4) (rsv : BitVec 11) (ea : EA) : Leads P Q (opChk2 sz xr rsv ea) :=
  leads_runInstr h fun _ => keeps_bind (keeps_specialWord _) fun _ => keeps_bind (keeps_addrEA _ _) fun _ =>
    keeps_bind (keeps_flush h.toClosed) fun _ => keeps_bind (keeps_boundsFlags h.toClosed _ _ _) fun _ =>
      keeps_ite (keeps_raise _) (keeps_pure _)

theorem leads_opTrapcc (words : Nat) (cc : BitVec 4) : Leads P Q (opTrapcc words cc) :=
  leads_runInstr h fun _ => keeps_bind (keeps_flush h.toClosed) fun _ => keeps_bind keeps_getCcr fun _ =>
    keeps_ite (keeps_raise _) (keeps_pure _)

theorem leads_opTrapv : Leads P Q opTrapv :=
  leads_runInstr h fun _ => keeps_bind (keeps_flush h.toClosed) fun _ => keeps_bind keeps_getCcr fun _ =>
    keeps_ite (keeps_raise _) (keeps_pure _)

end

section

variable (h : SystemClosed P Q)
include h

/-! ### System instructions (48_system_control.md, 49_trapping.md) -/

theorem keeps_writeSr (v : Word) : (writeSr v).Keeps P :=
  keeps_bind (keeps_guard _) fun _ => keeps_update fun s => h.sr s v

theorem keeps_sleepCurrent : sleepCurrent.Keeps P := keeps_update h.sleep

theorem keeps_fcrValue (v : Long) : (fcrValue v).Keeps P := by
  unfold fcrValue
  split
  · exact keeps_pure _
  · exact keeps_drawCtxId h.toClosed

theorem keeps_writeCtrl (c : CtrlReg) (v : Long) : (writeCtrl c v).Keeps P := by
  cases c with
  | sfc => exact keeps_update fun s => h.sfc s v
  | dfc => exact keeps_update fun s => h.dfc s v
  | usp => exact keeps_update fun s => h.usp s v
  | vbr => exact keeps_update fun s => h.vbr s v
  | ext code =>
    refine keeps_bind (keeps_read _) fun e => ?_
    split
    · exact keeps_bind (keeps_fcrValue h _) fun c => keeps_update fun s => h.fcr s c
    · exact keeps_update fun s => h.extRegs s code v

theorem leads_opImmToSr (g : Word → Word → Word) (imm : Word) : Leads P Q (opImmToSr g imm) :=
  leads_runInstr h.toStepClosed fun _ => keeps_bind keeps_requireSupervisor fun _ =>
    keeps_bind (keeps_touchExt _ _) fun _ => keeps_bind (keeps_flush h.toClosed) fun _ =>
      keeps_bind (keeps_read _) fun _ => keeps_bind (keeps_writeSr h _) fun _ => keeps_pure _

theorem leads_opMovecToCr (xr : BitVec 4) (code : BitVec 12) : Leads P Q (opMovecToCr xr code) :=
  leads_runInstr h.toStepClosed fun _ => keeps_bind (keeps_movecReg h.toStepClosed _) fun _ =>
    keeps_bind (keeps_getR _) fun _ => keeps_bind (keeps_writeCtrl h _ _) fun _ => keeps_pure _

theorem leads_opMoveToUsp (r : BitVec 3) : Leads P Q (opMoveToUsp r) :=
  leads_runInstr h.toStepClosed fun _ => keeps_bind keeps_requireSupervisor fun _ =>
    keeps_bind (keeps_flush h.toClosed) fun _ => keeps_bind (keeps_getA _) fun v =>
      keeps_bind (keeps_update fun s => h.usp s v) fun _ => keeps_pure _

theorem leads_opRte : Leads P Q opRte := by
  refine leads_runInstr h.toStepClosed fun _ => keeps_bind keeps_requireSupervisor fun _ =>
    keeps_bind (keeps_flush h.toClosed) fun _ => keeps_bind keeps_getSp fun _ => keeps_bind (keeps_memRead _ _) fun _ =>
      keeps_bind (keeps_memRead _ _) fun _ => keeps_bind (keeps_memRead _ _) fun _ => ?_
  split
  · exact keeps_raise _
  · exact keeps_bind (keeps_setSp h.toClosed _) fun _ => keeps_bind (keeps_writeSr h _) fun _ => keeps_pure _

theorem leads_opStop (hstop : ∀ s, P s → P s.stopAll) (imm : Word) : Leads P Q (opStop imm) :=
  leads_runInstr h.toStepClosed fun _ => keeps_bind keeps_requireSupervisor fun _ =>
    keeps_bind (keeps_touchExt _ _) fun _ => keeps_bind (keeps_flush h.toClosed) fun _ =>
      keeps_bind (keeps_read _) fun _ => keeps_bind (keeps_writeSr h _) fun _ =>
        keeps_ite (keeps_pure _) <|
          keeps_ite_both (keeps_update hstop) (keeps_sleepCurrent h) fun _ => keeps_pure _

theorem leads_opLpstop (imm : Word) : Leads P Q (opLpstop imm) :=
  leads_runInstr h.toStepClosed fun _ => keeps_bind (keeps_touchExt _ _) fun _ =>
    keeps_bind keeps_requireSupervisor fun _ => keeps_bind (keeps_touchExt _ _) fun _ =>
      keeps_bind (keeps_flush h.toClosed) fun _ => keeps_bind (keeps_writeSr h _) fun _ =>
        keeps_ite (keeps_bind (keeps_update h.lpStop) fun _ => keeps_pure _)
          (keeps_bind (keeps_sleepCurrent h) fun _ => keeps_pure _)

theorem leads_opSleep : Leads P Q opSleep :=
  leads_runInstr h.toStepClosed fun _ => keeps_bind keeps_requireSupervisor fun _ =>
    keeps_bind (keeps_flush h.toClosed) fun _ => keeps_bind (keeps_sleepCurrent h) fun _ => keeps_pure _

theorem leads_opBkpt : Leads P Q opBkpt :=
  leads_runInstr h.toStepClosed fun _ => keeps_bind (keeps_flush h.toClosed) fun _ =>
    keeps_ite (keeps_pure _) <| keeps_ite (keeps_raise _) <|
      keeps_bind (keeps_update h.halt) fun _ => keeps_pure _

end

end

/-- Every instruction but TRAPX leads from P to Q, STOP where P survives the stop of every context. -/
theorem leads_exec {P Q : State → Prop} (h : SystemClosed P Q) {i : Instr} (hi : ∀ v, i ≠ .trapx v)
    (hstop : ∀ imm, i = .stop imm → ∀ s, P s → P s.stopAll) : Leads P Q (exec i) := by
  have hstep := h.toStepClosed
  cases i with
  | moveB | moveW | moveL => exact leads_opMove hstep _ _ _
  | moveaW | moveaL => exact leads_opMovea hstep _ _ _
  | moveq => exact leads_opMoveq hstep _ _
  | movemStoreW | movemStoreL => exact leads_opMovemStore hstep _ _ _
  | movemLoadW | movemLoadL => exact leads_opMovemLoad hstep _ _ _
  | movepStoreW => exact leads_opMovepStoreW hstep _ _ _
  | movepStoreL => exact leads_opMovepStoreL hstep _ _ _
  | movepLoadW => exact leads_opMovepLoadW hstep _ _ _
  | movepLoadL => exact leads_opMovepLoadL hstep _ _ _
  | exgDD | exgAA | exgDA => exact leads_opExg hstep _ _
  | lea => exact leads_opLea hstep _ _
  | pea => exact leads_opPea hstep _
  | linkL | linkW => exact leads_opLink hstep _ _ _
  | unlk => exact leads_opUnlk hstep _
  | oriB | oriW | oriL | andiB | andiW | andiL | subiB | subiW | subiL | addiB | addiW | addiL | eoriB | eoriW |
    eoriL =>
    exact leads_opImmToEa hstep _ _ _ _
  | cmpiB | cmpiW | cmpiL => exact leads_opImmCompare hstep _ _ _
  | orToDnB | orToDnW | orToDnL | subToDnB | subToDnW | subToDnL | andToDnB | andToDnW | andToDnL | addToDnB |
    addToDnW | addToDnL =>
    exact leads_opEaToDn hstep _ _ _ _
  | orToEaB | orToEaW | orToEaL | subToEaB | subToEaW | subToEaL | eorB | eorW | eorL | andToEaB | andToEaW |
    andToEaL | addToEaB | addToEaW | addToEaL =>
    exact leads_opDnToEa hstep _ _ _ _
  | negxB | negxW | negxL | negB | negW | negL | notB | notW | notL => exact leads_opSingle hstep _ _ _
  | clrB | clrW | clrL => exact leads_opClr hstep _ _
  | subaW | subaL | addaW | addaL => exact leads_opAddressArith hstep _ _ _ _
  | addqB | subqB | addqW | subqW | addqL | subqL => exact leads_opQuick hstep _ _ _ _ _
  | subxB | subxW | subxL | addxB | addxW | addxL => exact leads_opExtended hstep (fun _ _ _ => keeps_pure _) _ _ _ _
  | abcd => exact leads_opExtended hstep (keeps_bcdAdd h.toClosed) _ _ _ _
  | sbcd => exact leads_opExtended hstep (keeps_bcdSub h.toClosed) _ _ _ _
  | extW | extL | extbL => exact leads_opExt hstep _ _ _
  | cmpB | cmpW | cmpL => exact leads_opCmp hstep _ _ _
  | cmpaW | cmpaL => exact leads_opCmpa hstep _ _ _
  | cmpmB | cmpmW | cmpmL => exact leads_opCmpm hstep _ _ _
  | tstB | tstW | tstL => exact leads_opTst hstep _ _
  | cmp2B | cmp2W | cmp2L => exact leads_opCmp2 hstep _ _ _ _
  | muluW | mulsW => exact leads_opMulW hstep _ _ _
  | muluL | mulsL => exact leads_opMulL hstep _ _ _ _ _ _ _
  | divuW | divsW => exact leads_opDivW hstep _ _ _
  | divuL | divsL => exact leads_opDivL hstep _ _ _ _ _ _ _
  | aslB | aslW | aslL | asrB | asrW | asrL | lslB | lslW | lslL | lsrB | lsrW | lsrL | roxlB | roxlW | roxlL |
    roxrB | roxrW | roxrL | rolB | rolW | rolL | rorB | rorW | rorL =>
    exact leads_opShiftReg hstep _ _ _ _ _
  | aslMem | asrMem | lslMem | lsrMem | roxlMem | roxrMem | rolMem | rorMem => exact leads_opShiftMem hstep _ _
  | swap => exact leads_opSwap hstep _
  | bchg | bclr | bset => exact leads_opBitStatic hstep _ _ _
  | bchgDn | bclrDn | bsetDn => exact leads_opBitDynamic hstep _ _ _
  | btst => exact leads_opBtstStatic hstep _ _
  | btstDn => exact leads_opBtstDynamic hstep _ _
  | tas => exact leads_opTas hstep _
  | nbcd => exact leads_opNbcd hstep _
  | bhi | bls | bcc | bcs | bne | beq | bvc | bvs | bpl | bmi | bge | blt | bgt | ble => exact leads_opBcc hstep _ _
  | bra => exact leads_opBra hstep _
  | bsr => exact leads_opBsr hstep _
  | dbcc => exact leads_opDbcc hstep _ _ _
  | scc => exact leads_opScc hstep _ _
  | jmp => exact leads_opJmp hstep _
  | jsr => exact leads_opJsr hstep _
  | rts => exact leads_opRts hstep
  | rtd => exact leads_opRtd hstep _
  | rtr => exact leads_opRtr hstep
  | nop => exact leads_opNop hstep
  | oriToCcr | andiToCcr | eoriToCcr => exact leads_opImmToCcr hstep _ _
  | moveFromCcr => exact leads_opMoveFromCcr hstep _
  | moveToCcr => exact leads_opMoveToCcr hstep _
  | moveFromSr => exact leads_opMoveFromSr hstep _
  | movecFromCr => exact leads_opMovecFromCr hstep _ _
  | moveFromUsp => exact leads_opMoveFromUsp hstep _
  | movesB | movesW | movesL => exact leads_opMoves hstep _ _ _ _ _
  | reset => exact leads_opReset hstep
  | bgnd => exact leads_opTrapAlways hstep .bgnd
  | illegal => exact leads_opTrapAlways hstep .illegal
  | trap v => exact leads_opTrapAlways hstep (.trap v)
  | chkW | chkL => exact leads_opChk hstep _ _ _
  | chk2B | chk2W | chk2L => exact leads_opChk2 hstep _ _ _ _
  | trapccW | trapccL | trapcc => exact leads_opTrapcc hstep _ _
  | trapv => exact leads_opTrapv hstep
  | oriToSr | andiToSr | eoriToSr => exact leads_opImmToSr h _ _
  | movecToCr => exact leads_opMovecToCr h _ _
  | moveToUsp => exact leads_opMoveToUsp h _
  | rte => exact leads_opRte h
  | lpstop => exact leads_opLpstop h _
  | sleep => exact leads_opSleep h
  | bkpt => exact leads_opBkpt h
  | stop imm => exact leads_opStop h (hstop imm rfl) imm
  | trapx v => exact absurd rfl (hi v)
  | refusedMoveToSr | refusedMovemPcW | refusedMovemPcL | refusedChkImmW | refusedChkImmL | refusedOrPcB |
    refusedOrImmB | refusedOrPcW | refusedOrImmW | refusedOrPcL | refusedOrImmL | refusedOrRegW | refusedOrRegL |
    refusedDivsImm =>
    exact leads_refuseWith _

/-! ## The contexts that do not run (10_state.md R41) -/

/-- The context of `s0` still runs in `t`, and every other context is related by `R` to what it was in `s0`. -/
def OthersRelated (R : Ctx → Ctx → Prop) (s0 t : State) : Prop :=
  t.cur = s0.cur ∧ ∀ j : Fin 5, j ≠ s0.cur → R s0.ctxs[j.val] t.ctxs[j.val]

/-- A context with its registers, whatever its run state. -/
def SameButRun (c c' : Ctx) : Prop := c' = { c with run := c'.run }

section

variable {R : Ctx → Ctx → Prop} {s0 s : State}

/-- An update of the running context, of memory or of the machine around the contexts leaves the others as they are. -/
theorem OthersRelated.trans_same {t : State} (h : OthersRelated R s0 s) (hcur : t.cur = s.cur)
    (hctxs : ∀ j : Fin 5, j ≠ s.cur → t.ctxs[j.val] = s.ctxs[j.val]) : OthersRelated R s0 t := by
  obtain ⟨hrun, hothers⟩ := h
  refine ⟨hcur.trans hrun, fun j hj => ?_⟩
  rw [hctxs j (hrun ▸ hj)]
  exact hothers j hj

theorem OthersRelated.withCtx (h : OthersRelated R s0 s) (c : Ctx) : OthersRelated R s0 (s.withCtx c) :=
  h.trans_same rfl fun _ hj => State.withCtx_other s c hj

theorem othersRelated_systemClosed (R : Ctx → Ctx → Prop) (s0 : State) :
    SystemClosed (OthersRelated R s0) fun t => ∀ j : Fin 5, j ≠ s0.cur → R s0.ctxs[j.val] t.ctxs[j.val] where
  d _ _ _ h := h.withCtx _
  a _ _ _ h := h.withCtx _
  sp _ _ h := h.withCtx _
  ccr _ _ h := h.withCtx _
  pc _ _ h := h.withCtx _
  draws _ _ h := h
  flush _ h := h
  store s a v _ h := h.trans_same (by simp) (by simp)
  enter _ _ h := h.withCtx _
  mark _ _ h := h
  done _ h := h.2
  rescheduled s h := by simpa only [reschedule_ctxs] using h.2
  sr _ _ h := h.withCtx _
  usp _ _ h := h.withCtx _
  vbr _ _ h := h.withCtx _
  sfc _ _ h := h.withCtx _
  dfc _ _ h := h.withCtx _
  fcr _ _ h := h
  extRegs _ _ _ h := h
  sleep _ h := h.withCtx _
  halt _ h := h.withCtx _
  lpStop _ h := h

/-- STOP changes run states only (R395). -/
theorem sameButRun_stopAll (h : OthersRelated SameButRun s0 s) : OthersRelated SameButRun s0 s.stopAll := by
  obtain ⟨hrun, hothers⟩ := h
  refine ⟨hrun, fun j hj => ?_⟩
  have hj := hothers j hj
  simp only [State.stopAll, Vector.getElem_map]
  unfold SameButRun at hj ⊢
  split
  · rw [hj]
  · exact hj

end

/-- Settles O10: the contexts that do not run are equal up to the run state, and equal where the instruction is not
STOP, by `leads_exec` with the two relations. -/
theorem otherContextsUntouched : Obligations.OtherContextsUntouched := by
  intro i s t hi hx j hj
  refine ⟨?_, fun hstop => ?_⟩
  · exact leads_exec (othersRelated_systemClosed SameButRun s) hi (fun _ _ _ => sameButRun_stopAll) s t
      ⟨rfl, fun _ _ => rfl⟩ hx j hj
  · have same := leads_exec (othersRelated_systemClosed (· = ·) s) hi (fun imm e => absurd e (hstop imm)) s t
      ⟨rfl, fun _ _ => rfl⟩ hx j hj
    rw [← same]

end Sys2Proof.Machine

/-! ## Accesses to memory and instruction fetches (20_memory.md R63, R64, R66, R67, R77, R78) -/

namespace Sys2Proof.Machine

section

variable {s : State} {a : Long} {sz : Size}

/-! ### Which accesses are checked for what -/

theorem accessCheck_misaligned {p : Params} (hodd : a.getLsbD 0 = true) (hfault : p.misalign = .fault) (hsz : sz ≠ .b) :
    accessCheck p a sz = some (.exc (.addressError a)) := if_pos ⟨hsz, hodd, hfault⟩

/-- A read or write of a word or long word at an odd address (R66). -/
theorem misaligned_access (v : Long) (hodd : a.getLsbD 0 = true) (hfault : s.params.misalign = .fault) (hsz : sz ≠ .b) :
    memRead a sz s = .error (.exc (.addressError a)) s ∧ memWrite a sz v s = .error (.exc (.addressError a)) s := by
  have check := accessCheck_misaligned hodd hfault hsz
  constructor
  · rw [memRead_cases, check]
  · simp only [memWrite_cases, writeCheck, check]

theorem readable_of_aligned (halign : sz = .b ∨ a.getLsbD 0 = false ∨ s.params.misalign = .split)
    (htop : a.toNat + sz.bytes ≤ 2 ^ 32) (hmapped : touchesUnmapped s.params a.toNat sz.bytes = false)
    (hdevice : touchesDevice s.params a.toNat sz.bytes = false) : readable s a sz = true := by
  have aligned : ¬ (sz ≠ .b ∧ a.getLsbD 0 = true ∧ s.params.misalign = .fault) := by
    rintro ⟨hsz, hodd, hfault⟩
    rw [hodd, hfault] at halign
    simp [hsz] at halign
  rw [readable, accessCheck, if_neg aligned, if_neg (Nat.not_lt.2 htop), hmapped, hdevice]
  rfl

theorem writable_of_readable (h : readable s a sz = true) (hrom : touchesRom s.params a.toNat sz.bytes = false) :
    writable s a sz = true := by
  simp [writable, writeCheck, accessCheck_of_readable h, hrom]

/-- Settles O18: an odd address by the first test of `accessCheck`; where every test passes, by what `memRead` and
`memWrite` then do. -/
theorem misalignedAccess : Obligations.MisalignedAccess := by
  refine ⟨rfl, fun s a v hodd hfault => ?_, fun s a v sz htop hmapped hdevice hrom halign => ?_⟩
  · simp only [List.forall_mem_cons, List.not_mem_nil, false_implies, implies_true, and_true]
    exact ⟨misaligned_access v hodd hfault (by decide), misaligned_access v hodd hfault (by decide)⟩
  · have hr := readable_of_aligned halign htop hmapped hdevice
    exact ⟨memRead_run hr, memWrite_run (writable_of_readable hr hrom) v⟩

/-! ### What a write stores -/

theorem operandBytes_getElem (sz : Size) (v : Long) {j : Nat} (h : j < (operandBytes sz v).length) :
    (operandBytes sz v)[j] = v.extractLsb' (8 * (sz.bytes - 1 - j)) 8 := by
  have low : v.setWidth 8 = v.extractLsb' 0 8 := BitVec.setWidth_eq_extractLsb' (by decide)
  rw [operandBytes_length] at h
  cases sz with
  | b =>
    obtain rfl : j = 0 := Nat.lt_one_iff.1 h
    exact low
  | w =>
    match j, h with
    | 0, _ => rfl
    | 1, _ => exact low
  | l =>
    match j, h with
    | 0, _ | 1, _ | 2, _ => rfl
    | 3, _ => exact low

theorem kindAt_of_noRom {n : Nat} (h : noRom s a n = true) {j : Nat} (hj : j < n) :
    kindAt s.params (a.toNat + j) ≠ .rom := by
  intro hrom
  have touched : touchesRom s.params a.toNat n = true :=
    List.any_eq_true.2 ⟨a.toNat + j, List.mem_map.2 ⟨j, List.mem_range.2 hj, rfl⟩, beq_iff_eq.2 hrom⟩
  simp [noRom, touched] at h

/-- Settles O19: the bytes of a write by `State.storeBytes_get_stored`, its frame by `State.wrote_get_other`; a read is
by definition of the bytes of memory. -/
theorem readAfterWrite : Obligations.ReadAfterWrite := by
  refine ⟨fun s a v sz hbits hrom => ⟨fun j hj => ?_, fun b hb => State.wrote_get_other s a sz v hb⟩,
    fun s a => ⟨rfl, rfl, rfl⟩, fun s a v sz hw => memWrite_run hw v⟩
  have hlen := operandBytes_length sz v
  have stored := State.storeBytes_get_stored s a.toNat (operandBytes sz v) (hlen ▸ hj) (hlen ▸ hbits)
    (kindAt_of_noRom hrom hj)
  exact stored.trans (operandBytes_getElem sz v _)


/-! ### What forbids a fetch -/

theorem fetchCheck_odd (hodd : a.getLsbD 0 = true) : fetchCheck s a = some (.exc (.addressError a)) := if_pos hodd

theorem fetchCheck_unmapped (heven : a.getLsbD 0 = false) (hunmapped : touchesUnmapped s.params a.toNat 2 = true) :
    fetchCheck s a = some (.exc (.busError a)) := by
  simp only [fetchCheck, heven, hunmapped, Bool.false_eq_true, if_false, if_true]

theorem fetchCheck_device (heven : a.getLsbD 0 = false) (hmapped : touchesUnmapped s.params a.toNat 2 = false)
    (hdevice : touchesDevice s.params a.toNat 2 = true) : fetchCheck s a = some (.refuse .deviceAccess) := by
  simp only [fetchCheck, heven, hmapped, hdevice, Bool.false_eq_true, if_false, if_true]

theorem isStale_iff {b : Nat} : s.isStale b = true ↔ busAddr s.params b ∈ s.stale := List.contains_iff_mem

/-- In plain memory at an even address the list of stale bytes decides (R77). -/
theorem fetchCheck_plain (heven : a.getLsbD 0 = false) (hmapped : touchesUnmapped s.params a.toNat 2 = false)
    (hdevice : touchesDevice s.params a.toNat 2 = false) :
    fetchCheck s a =
      if s.params.prefetch = .refuse ∧ (s.isStale a.toNat || s.isStale (a.toNat + 1)) then
        some (.refuse .prefetchHazard)
      else none := by
  simp only [fetchCheck, heven, hmapped, hdevice, Bool.false_eq_true, if_false]

theorem fetchCheck_stale (heven : a.getLsbD 0 = false) (hmapped : touchesUnmapped s.params a.toNat 2 = false)
    (hdevice : touchesDevice s.params a.toNat 2 = false) (hrefuse : s.params.prefetch = .refuse)
    (hstale : busAddr s.params a.toNat ∈ s.stale ∨ busAddr s.params (a.toNat + 1) ∈ s.stale) :
    fetchCheck s a = some (.refuse .prefetchHazard) := by
  rw [fetchCheck_plain heven hmapped hdevice, if_pos]
  simpa only [Bool.or_eq_true, isStale_iff] using ⟨hrefuse, hstale⟩

/-- With no byte stale a word of plain memory at an even address can be fetched. -/
theorem fetchCheck_fresh (heven : a.getLsbD 0 = false) (hmapped : touchesUnmapped s.params a.toNat 2 = false)
    (hdevice : touchesDevice s.params a.toNat 2 = false) (hfresh : s.stale = []) : fetchCheck s a = none := by
  have fresh : ∀ b, s.isStale b = false := fun b => by simp [State.isStale, hfresh]
  simp only [fetchCheck_plain heven hmapped hdevice, fresh, Bool.or_self, Bool.false_eq_true, and_false, if_false]

/-! ### What a fetch that fails ends in -/

/-- The step `o` ends as the fetch of the word at `a` in the instruction at the pc of `s` fails: in the fault of an odd
or an unmapped address (R67, R78, R465), in the refusal of a device region or of a stale byte (logs 20, 53). -/
def EndsAsFetchFails (s : State) (a : Long) (o : Step) : Prop :=
  (a.getLsbD 0 = true → endsFaulted s .address a s.ctx.pc o) ∧
  (a.getLsbD 0 = false → touchesUnmapped s.params a.toNat 2 = true → endsFaulted s .bus a s.ctx.pc o) ∧
  (a.getLsbD 0 = false → touchesUnmapped s.params a.toNat 2 = false →
    (touchesDevice s.params a.toNat 2 = true → o = .refused .deviceAccess) ∧
    (touchesDevice s.params a.toNat 2 = false → s.params.prefetch = .refuse →
      (busAddr s.params a.toNat ∈ s.stale ∨ busAddr s.params (a.toNat + 1) ∈ s.stale) → o = .refused .prefetchHazard))

/-- An instruction whose body stops, with nothing changed, for what forbids the fetch of the word at `a`. -/
theorem endsAsFetchFails_of_stop {o : Step}
    (h : ∀ e, fetchCheck s a = some e → ∃ words body, o = runInstr words body s ∧ body s = .error e s) :
    EndsAsFetchFails s a o := by
  refine ⟨fun hodd => ?_, fun heven hunmapped => ?_, fun heven hmapped => ⟨fun hdevice => ?_,
    fun hdevice hrefuse hstale => ?_⟩⟩
  · obtain ⟨_, _, rfl, hbody⟩ := h _ (fetchCheck_odd hodd)
    exact runInstr_faulted (kind := .address) hbody
  · obtain ⟨_, _, rfl, hbody⟩ := h _ (fetchCheck_unmapped heven hunmapped)
    exact runInstr_faulted (kind := .bus) hbody
  · obtain ⟨_, _, rfl, hbody⟩ := h _ (fetchCheck_device heven hmapped hdevice)
    exact runInstr_refused hbody
  · obtain ⟨_, _, rfl, hbody⟩ := h _ (fetchCheck_stale heven hmapped hdevice hrefuse hstale)
    exact runInstr_refused hbody

/-! ### The operation word -/

theorem deliver_of_no_events (h : s.events = []) : deliver s = s := by
  unfold deliver
  rw [h]

theorem wake_of_no_irqs (h : s.irqs = []) : wake s = s := by
  unfold wake
  rw [h]
  exact ite_self _

theorem pickIrq_of_no_irqs (h : s.irqs = []) : pickIrq s = none := by
  unfold pickIrq
  rw [h]
  rfl

/-- With nothing to deliver and nothing pending a step fetches and executes. -/
theorem step_executes (hmark : s.mark = .none) (hevents : s.events = []) (hirqs : s.irqs = [])
    (hrun : canRun s = true) : step s = executeNext exec s := by
  rw [step, deliver_of_no_events hevents, advance, hmark]
  dsimp only
  rw [wake_of_no_irqs hirqs, if_pos hrun, pickIrq_of_no_irqs hirqs]

theorem executeNext_stop {run : Instr → State → Step} {e : Stop} (h : fetchCheck s s.ctx.pc = some e) :
    executeNext run s = runInstr 1 (fun u => .error e u) s := by
  rw [executeNext, h]

/-! ### The extension words of an operand read first -/

/-- An instruction that begins by reading its operand stops at the first word of it that cannot be fetched. -/
theorem endsAsFetchFails_of_readEA {src : EA} {words j : Nat} {body : Long → M Flow} (hj : j < src.extWords sz)
    (hf : fetchable s 0 j = true) :
    EndsAsFetchFails s (extAddr s.ctx.pc j) (runInstr words (readEA src sz 0 >>= body) s) :=
  endsAsFetchFails_of_stop fun _ he =>
    have located : locate src sz 0 s = .error _ s := locate_stop hj hf (by rwa [Nat.zero_add])
    ⟨_, _, rfl, M_bind_error (M_bind_error located _) _⟩

/-! ### The flush of NOP -/

theorem exec_nop_run (hu : untraced s = true) : exec .nop s = .next (s.finished 1 s.flush) := by
  change opNop s = _
  refine runInstr_next hu ?_
  exact M_bind_ok (flushPipeline_run s) _

/-- Settles O20: an operation word by `executeNext`, the extension words of an operand by `locate_stop`, and NOP by the
empty list of stale bytes it leaves. -/
theorem staleFetchRefused : Obligations.StaleFetchRefused := by
  refine ⟨fun s hmark hevents hirqs hrun => ?_, fun s r src dst row hrow j hj hf => ?_,
    fun s t a hx hu heven hmapped hdevice => ?_⟩
  · rw [step_executes hmark hevents hirqs hrun]
    exact endsAsFetchFails_of_stop fun e he => ⟨_, _, executeNext_stop he, rfl⟩
  · have reads : ∃ words body, exec row.1 s = runInstr words (readEA src row.2 0 >>= body) s := by
      -- each row's arm of `exec` is a shape whose first operation is the read
      clear hj
      fin_cases hrow <;> exact ⟨_, _, rfl⟩
    obtain ⟨words, body, hexec⟩ := reads
    rw [hexec]
    exact endsAsFetchFails_of_readEA hj hf
  · cases (exec_nop_run hu).symm.trans hx
    exact fetchCheck_fresh heven hmapped hdevice rfl

end

end Sys2Proof.Machine

/-! ## The invariant of good states (10_state.md R26, R27, R32, R43, 20_memory.md R60)

Every update an instruction makes keeps the invariant, so every instruction does by `leads_exec`; TRAPX, a reset and a
wake-up set run states and the running context anew, and are done apart. -/

namespace Sys2Proof.Machine

section

variable {x y : Word}

/-! ### Implemented bits -/

theorem masked_or (hx : x &&& srImplemented = x) (hy : y &&& srImplemented = y) :
    (x ||| y) &&& srImplemented = x ||| y := by
  refine BitVec.eq_of_getLsbD_eq fun i _ => ?_
  rw [BitVec.getLsbD_and, BitVec.getLsbD_or, Bool.and_or_distrib_right, ← BitVec.getLsbD_and, ← BitVec.getLsbD_and, hx,
    hy]

theorem masked_and (hx : x &&& srImplemented = x) (y : Word) : x &&& y &&& srImplemented = x &&& y := by
  rw [BitVec.and_assoc, BitVec.and_comm y, ← BitVec.and_assoc, hx]

theorem putCcr_masked (h : x &&& srImplemented = x) (f : Ccr) : putCcr x f &&& srImplemented = putCcr x f := by
  refine BitVec.eq_of_getLsbD_eq fun i _ => ?_
  by_cases low : i < 5
  · exact masked_ccr _ low
  · rw [BitVec.getLsbD_and, putCcr_high _ _ (Nat.le_of_not_lt low), ← BitVec.getLsbD_and, h]

theorem srForEntry_masked (h : x &&& srImplemented = x) (level : Option (BitVec 3)) :
    srForEntry x level &&& srImplemented = srForEntry x level := by
  have base := masked_and (masked_or h (show 0x2000#16 &&& srImplemented = 0x2000#16 by decide)) 0x3FFF#16
  cases level with
  | none => exact base
  | some l =>
    have mask : ∀ l : BitVec 3, l.setWidth 16 <<< 8 &&& srImplemented = l.setWidth 16 <<< 8 := by decide
    exact masked_or (masked_and base _) (mask l)

theorem fcMask_fcMask (p : Params) (v : Long) : fcMask p (fcMask p v) = fcMask p v := by
  rw [fcMask, fcMask, BitVec.and_assoc, BitVec.and_self]

end

/-! ### One context -/

section

variable {p : Params} {c c' : Ctx}

theorem Ctx.inv_iff : c.inv p = true ↔
    c.sr &&& srImplemented = c.sr ∧ fcMask p c.sfc = c.sfc ∧ fcMask p c.dfc = c.dfc := by
  simp only [Ctx.inv, Bool.and_eq_true, beq_iff_eq, and_assoc]

/-- The other registers and the run state do not count. -/
theorem Ctx.inv_congr (h : c.inv p = true) (hsr : c'.sr = c.sr) (hsfc : c'.sfc = c.sfc) (hdfc : c'.dfc = c.dfc) :
    c'.inv p = true := by
  rw [Ctx.inv_iff] at h ⊢
  rwa [hsr, hsfc, hdfc]

theorem Ctx.inv_withSr (h : c.inv p = true) {v : Word} (hv : v &&& srImplemented = v) :
    Ctx.inv p { c with sr := v } = true := by
  obtain ⟨_, hsfc, hdfc⟩ := Ctx.inv_iff.1 h
  exact Ctx.inv_iff.2 ⟨hv, hsfc, hdfc⟩

theorem Ctx.inv_sr (h : c.inv p = true) : c.sr &&& srImplemented = c.sr := (Ctx.inv_iff.1 h).1

theorem sanitise_inv (p : Params) (c : Ctx) : (sanitise p c).inv p = true :=
  Ctx.inv_iff.2 ⟨masked_masked _, fcMask_fcMask _ _, fcMask_fcMask _ _⟩

end

/-! ### The whole state -/

section

variable {s : State}

theorem State.Inv.ctx (h : s.Inv) : s.ctx.inv s.params = true := h.ctxs s.cur

theorem ctxs_set_inv {l : Vector Ctx 5} {p : Params} (h : ∀ j : Fin 5, l[j.val].inv p = true) (i : Fin 5) {c : Ctx}
    (hc : c.inv p = true) (j : Fin 5) : (l.set i.val c)[j.val].inv p = true := by
  rw [Vector.getElem_set]
  split
  · exact hc
  · exact h j

/-- A context may be replaced by one without unimplemented bits that is READY only if it was. -/
theorem State.Inv.setCtx (h : s.Inv) (i : Fin 5) {c : Ctx} (hc : c.inv s.params = true)
    (hrun : c.run = .ready → s.ctxs[i.val].run = .ready) : State.Inv { s with ctxs := s.ctxs.set i.val c } where
  mem := h.mem
  stale := h.stale
  ctxs := ctxs_set_inv h.ctxs i hc
  master hr := by
    refine h.master ?_
    rw [Vector.getElem_set] at hr
    split at hr
    · next e => simpa only [e] using hrun hr
    · exact hr

/-- An update of the running context that leaves its run state. -/
theorem State.Inv.withCtx (h : s.Inv) {c : Ctx} (hc : c.inv s.params = true) (hrun : c.run = s.ctx.run) :
    (s.withCtx c).Inv := h.setCtx s.cur hc fun hr => hrun.symm.trans hr

theorem State.Inv.withCtx_congr (h : s.Inv) {c : Ctx} (hsr : c.sr = s.ctx.sr) (hsfc : c.sfc = s.ctx.sfc)
    (hdfc : c.dfc = s.ctx.dfc) (hrun : c.run = s.ctx.run) : (s.withCtx c).Inv :=
  h.withCtx (Ctx.inv_congr h.ctx hsr hsfc hdfc) hrun

theorem State.Inv.withStatus (h : s.Inv) {v : Word} (hv : v &&& srImplemented = v) :
    (s.withCtx { s.ctx with sr := v }).Inv := h.withCtx (Ctx.inv_withSr h.ctx hv) rfl

theorem State.Inv.flush (h : s.Inv) : s.flush.Inv where
  mem := h.mem
  stale := ⟨List.Pairwise.nil, fun _ hb => nomatch hb⟩
  ctxs := h.ctxs
  master := h.master

theorem storeByte_staleWf {a : Nat} (v : Byte) (h : staleWf s.stale) (ha : a < 2 ^ 32) :
    staleWf (s.storeByte a v).stale := by
  unfold State.storeByte
  split
  · exact h
  · refine ⟨staleInsert_rising h.1, fun b hb => ?_⟩
    rcases mem_staleInsert.1 hb with rfl | hb
    · exact busAddr_lt ha
    · exact h.2 b hb

theorem State.Inv.storeByte (h : s.Inv) {a : Nat} (v : Byte) (ha : a < 2 ^ 32) : (s.storeByte a v).Inv where
  mem := State.storeByte_wf h.mem ha
  stale := storeByte_staleWf v h.stale ha
  ctxs := by simpa only [State.storeByte_ctxs, State.storeByte_params] using h.ctxs
  master := by simpa only [State.storeByte_ctxs, State.storeByte_cur] using h.master

/-! ### The scheduler -/

theorem reschedule_params (s : State) : (reschedule s).params = s.params := by
  unfold reschedule
  split
  · rfl
  · split <;> rfl

theorem reschedule_stale (s : State) : (reschedule s).stale = s.stale ∨ (reschedule s).stale = [] := by
  unfold reschedule
  split
  · exact .inl rfl
  · split
    · exact .inl rfl
    · exact .inr rfl

/-- The scheduler gives the CPU to a READY MC0, so it needs every clause of the invariant but that one. -/
theorem reschedule_inv (hmem : s.mem.wf) (hstale : staleWf s.stale)
    (hctxs : ∀ i : Fin 5, s.ctxs[i.val].inv s.params = true) : (reschedule s).Inv where
  mem := by rwa [reschedule_mem]
  stale := by
    rcases reschedule_stale s with e | e <;> rw [e]
    · exact hstale
    · exact ⟨List.Pairwise.nil, fun _ hb => nomatch hb⟩
  ctxs := by simpa only [reschedule_ctxs, reschedule_params] using hctxs
  master hr := by
    rw [reschedule_ctxs] at hr
    exact reschedule_cur (chooseCtx_master hr)

theorem setRun_ctxs_inv (h : s.Inv) (i : CtxId) (r : CtxState) (j : Fin 5) :
    (s.setRun i r).ctxs[j.val].inv s.params = true :=
  ctxs_set_inv h.ctxs i (Ctx.inv_congr (c' := { s.ctxs[i.val] with run := r }) (h.ctxs i) rfl rfl rfl) j

theorem wakeCtx_inv (h : s.Inv) (i : CtxId) : (wakeCtx i s).Inv :=
  reschedule_inv (s := s.setRun i .ready) h.mem h.stale (setRun_ctxs_inv h i .ready)

/-! ### Instructions -/

theorem inv_systemClosed : SystemClosed State.Inv State.Inv where
  d _ _ _ h := h.withCtx_congr rfl rfl rfl rfl
  a _ _ _ h := h.withCtx_congr (by simp) (by simp) (by simp) (by simp)
  sp _ _ h := h.withCtx_congr (by simp) (by simp) (by simp) (by simp)
  ccr _ f h := h.withStatus (putCcr_masked (Ctx.inv_sr h.ctx) f)
  pc _ _ h := h.withCtx_congr rfl rfl rfl rfl
  draws _ _ h := ⟨h.mem, h.stale, h.ctxs, h.master⟩
  flush _ h := h.flush
  store _ _ v ha h := h.storeByte v ha
  enter _ l h := h.withStatus (srForEntry_masked (Ctx.inv_sr h.ctx) l)
  mark _ _ h := ⟨h.mem, h.stale, h.ctxs, h.master⟩
  done _ h := h
  rescheduled _ h := reschedule_inv h.mem h.stale h.ctxs
  sr _ _ h := h.withStatus (srUnpack_masked _ _)
  usp _ _ h := h.withCtx_congr rfl rfl rfl rfl
  vbr _ _ h := h.withCtx_congr rfl rfl rfl rfl
  sfc _ _ h := by
    obtain ⟨hsr, _, hdfc⟩ := Ctx.inv_iff.1 h.ctx
    exact h.withCtx (Ctx.inv_iff.2 ⟨hsr, fcMask_fcMask _ _, hdfc⟩) rfl
  dfc _ _ h := by
    obtain ⟨hsr, hsfc, _⟩ := Ctx.inv_iff.1 h.ctx
    exact h.withCtx (Ctx.inv_iff.2 ⟨hsr, hsfc, fcMask_fcMask _ _⟩) rfl
  fcr _ _ h := ⟨h.mem, h.stale, h.ctxs, h.master⟩
  extRegs _ _ _ h := ⟨h.mem, h.stale, h.ctxs, h.master⟩
  sleep s h := h.setCtx s.cur (Ctx.inv_congr h.ctx rfl rfl rfl) fun hr => nomatch hr
  halt s h := h.setCtx s.cur (Ctx.inv_congr h.ctx rfl rfl rfl) fun hr => nomatch hr
  lpStop _ h := ⟨h.mem, h.stale, h.ctxs, h.master⟩

/-- After STOP no context is READY (R395). -/
theorem stopAll_inv (h : s.Inv) : s.stopAll.Inv where
  mem := h.mem
  stale := h.stale
  ctxs i := by
    simp only [State.stopAll, Vector.getElem_map]
    split
    · exact Ctx.inv_congr (h.ctxs i) rfl rfl rfl
    · exact h.ctxs i
  master hr := by
    simp only [State.stopAll, Vector.getElem_map] at hr
    split at hr
    · cases hr
    · next notReady => exact absurd hr notReady

theorem trapxSwitch_inv (h : s.Inv) : (trapxSwitch s).Inv where
  mem := h.mem
  stale := ⟨List.Pairwise.nil, fun _ hb => nomatch hb⟩
  ctxs := setRun_ctxs_inv (h.withCtx_congr (c := { s.ctx with pc := s.ctx.pc + 2#32 }) rfl rfl rfl rfl) 0 .ready
  master _ := rfl

/-- TRAPX runs MC0, which the switch makes READY, through its vector (R428). -/
theorem leads_opTrapx (v : BitVec 4) : Leads State.Inv State.Inv (opTrapx v) := by
  intro s t hs hx
  have closed := inv_systemClosed.toClosed
  have hswitch := trapxSwitch_inv hs
  unfold opTrapx at hx
  dsimp only at hx
  split at hx
  · exact keeps_takeEntry closed (keeps_enterException closed _ _ _ _) hswitch hx
  · have jump : (do setPc (← readVector (6#4 ++ v)) : M Unit).Keeps State.Inv :=
      keeps_bind (keeps_readVector _) fun _ => keeps_setPc closed _
    have hjump := jump _ hswitch
    split at hx <;> rename_i hrun <;> rw [hrun] at hjump
    · cases hx; exact hjump
    · exact keeps_memFault closed _ _ _ hjump hx
    · exact keeps_memFault closed _ _ _ hjump hx
    · cases hx
    · cases hx

/-- Every instruction keeps the invariant. -/
theorem exec_inv (i : Instr) : Leads State.Inv State.Inv (exec i) := by
  by_cases hi : ∃ v, i = .trapx v
  · obtain ⟨v, rfl⟩ := hi
    exact leads_opTrapx v
  · exact leads_exec inv_systemClosed (fun v e => hi ⟨v, e⟩) fun _ _ _ => stopAll_inv

end

/-! ### Answers of computations -/

/-- A computation keeps a property of states, and its answer, if it gives one, has a property too. -/
def M.Answers (P : State → Prop) {α : Type} (R : α → Prop) (x : M α) : Prop :=
  ∀ s, P s → match x s with
    | .ok a t => P t ∧ R a
    | .error _ t => P t

section

variable {P : State → Prop} {α β : Type} {R : α → Prop} {R' : β → Prop}

theorem M.Answers.keeps {x : M α} (h : x.Answers P R) : x.Keeps P := by
  intro s hs
  have hx := h s hs
  cases e : x s with
  | ok a t => rw [e] at hx; exact hx.1
  | error e' t => rw [e] at hx; exact hx

theorem M.Keeps.answers {x : M α} (h : x.Keeps P) : x.Answers P fun _ => True := by
  intro s hs
  have hx := h s hs
  cases e : x s with
  | ok a t => rw [e] at hx; exact ⟨hx, trivial⟩
  | error e' t => rw [e] at hx; exact hx

theorem answers_pure {a : α} (h : R a) : (pure a : M α).Answers P R := fun _ hs => ⟨hs, h⟩

theorem answers_read {f : State → α} (h : ∀ s, P s → R (f s)) : (M.read f).Answers P R := fun s hs => ⟨hs, h s hs⟩

theorem answers_bind {x : M α} {f : α → M β} (hx : x.Answers P R) (hf : ∀ a, R a → (f a).Answers P R') :
    (x >>= f).Answers P R' := by
  intro s hs
  have hx := hx s hs
  rw [M_bind_run]
  cases e : x s with
  | ok a t =>
    rw [e] at hx
    obtain ⟨ht, ha⟩ := hx
    exact hf a ha t ht
  | error e' t => rw [e] at hx; exact hx

theorem answers_of_keeps_bind {x : M α} {f : α → M β} (hx : x.Keeps P) (hf : ∀ a, (f a).Answers P R') :
    (x >>= f).Answers P R' := answers_bind hx.answers fun a _ => hf a

end

/-! ### Reset (R500 to R503) -/

/-- What holds while a reset gathers its registers: a good state in which MC0 runs. -/
def Resetting (p : Params) (s : State) : Prop := s.Inv ∧ s.cur = 0 ∧ s.params = p

section

variable {p : Params} {s : State}

theorem Resetting.draws (h : Resetting p s) (n : Nat) : Resetting p { s with draws := n } :=
  ⟨inv_systemClosed.draws s n h.1, h.2⟩

theorem keeps_drawVector (n : Nat) : (drawVector n).Keeps (Resetting p) := fun _ h => h.draws _

theorem answers_params : (M.read State.params).Answers (Resetting p) (· = p) := answers_read fun _ h => h.2.2

theorem answers_drawCtx : drawCtx.Answers (Resetting p) fun c => c.inv p = true :=
  answers_bind answers_params fun _ hp => answers_of_keeps_bind (keeps_drawVector _) fun _ =>
    answers_of_keeps_bind (keeps_drawVector _) fun _ => answers_of_keeps_bind (keeps_drawVector _) fun _ =>
      answers_pure (Ctx.inv_iff.2 ⟨masked_masked _, hp ▸ fcMask_fcMask _ _, hp ▸ fcMask_fcMask _ _⟩)

theorem answers_resetOther (i : CtxId) : (resetOther i).Answers (Resetting p) fun c => c.inv p = true := by
  refine answers_of_keeps_bind (keeps_read _) fun supplied => ?_
  cases supplied with
  | some c => exact answers_bind answers_params fun _ hp => answers_pure (hp ▸ sanitise_inv _ c)
  | none => exact answers_drawCtx

theorem answers_resetMaster : resetMaster.Answers (Resetting p) fun c => c.inv p = true := by
  refine answers_of_keeps_bind (keeps_read _) fun supplied => ?_
  cases supplied with
  | some c =>
    exact answers_bind answers_params fun _ hp =>
      answers_pure (Ctx.inv_congr (hp ▸ sanitise_inv _ c) rfl rfl rfl)
  | none =>
    exact answers_of_keeps_bind (keeps_read _) fun _ => answers_of_keeps_bind (keeps_memRead _ _) fun _ =>
      answers_of_keeps_bind (keeps_memRead _ _) fun _ => answers_bind answers_drawCtx fun c hc =>
        answers_pure (Ctx.inv_congr (Ctx.inv_withSr hc (v := 0x2700#16) (by decide)) rfl rfl rfl)

theorem keeps_resetDraw : draw.Keeps (Resetting p) := fun _ h => h.draws _

theorem keeps_drawExt (l : List (BitVec 12 × ExtReg)) : (drawExt l).Keeps (Resetting p) := by
  induction l with
  | nil => exact keeps_pure _
  | cons e l ih =>
    obtain ⟨code, r⟩ := e
    cases r with
    | fcr => exact keeps_bind ih fun _ => keeps_pure _
    | plain v => exact keeps_bind keeps_resetDraw fun _ => keeps_bind ih fun _ => keeps_pure _

theorem Resetting.start (h : s.Inv) :
    Resetting s.params { s with mark := .none, cpu := .running, cur := 0, stale := [] } :=
  ⟨⟨h.mem, ⟨List.Pairwise.nil, fun _ hb => nomatch hb⟩, h.ctxs, fun _ => rfl⟩, rfl, rfl⟩

/-- The gathered registers are loaded. -/
theorem Resetting.load (h : Resetting p s) {c0 c1 c2 c3 c4 : Ctx} (f : CtxId) (x : List (BitVec 12 × ExtReg))
    (hc : ∀ c ∈ [c0, c1, c2, c3, c4], c.inv p = true) :
    Resetting p { s with ctxs := #v[c0, c1, c2, c3, c4], fcr := f, extRegs := x } := by
  obtain ⟨hs, hcur, rfl⟩ := h
  refine ⟨⟨hs.mem, hs.stale, fun i => ?_, fun _ => hcur⟩, hcur, rfl⟩
  simp only [List.forall_mem_cons, List.not_mem_nil, false_implies, implies_true, and_true] at hc
  obtain ⟨h0, h1, h2, h3, h4⟩ := hc
  match i with
  | 0 => exact h0
  | 1 => exact h1
  | 2 => exact h2
  | 3 => exact h3
  | 4 => exact h4

/-- A reset first gives MC0 the CPU; from there every register it loads is a good one. -/
theorem resetBody_gathers (s : State) : ∃ gather : M Unit,
    resetBody s = gather { s with mark := .none, cpu := .running, cur := 0, stale := [] } ∧
    gather.Keeps (Resetting s.params) := by
  refine ⟨_, M_bind_update _ _ s, ?_⟩
  refine M.Answers.keeps (R := fun _ => True) ?_
  refine answers_bind (answers_resetOther 1) fun c1 h1 => answers_bind (answers_resetOther 2) fun c2 h2 =>
    answers_bind (answers_resetOther 3) fun c3 h3 => answers_bind (answers_resetOther 4) fun c4 h4 =>
    answers_of_keeps_bind (keeps_bind keeps_resetDraw fun _ => keeps_pure _) fun f =>
    answers_of_keeps_bind (keeps_read _) fun l => answers_of_keeps_bind (keeps_drawExt l) fun x =>
    answers_bind answers_resetMaster fun c0 h0 => M.Keeps.answers (keeps_update fun s hs => hs.load f x ?_)
  simp only [List.forall_mem_cons, List.not_mem_nil, false_implies, implies_true, and_true]
  exact ⟨h0, h1, h2, h3, h4⟩

theorem hostReset_inv (h : s.Inv) : (hostReset s).Inv := by
  obtain ⟨gather, hbody, hkeeps⟩ := resetBody_gathers s
  have hs := hkeeps _ (Resetting.start h)
  unfold hostReset
  rw [hbody]
  split <;> rename_i hrun <;> rw [hrun] at hs
  · exact hs.1
  · exact inv_systemClosed.mark _ _ hs.1

/-! ### Events and wake-ups (R517, R471) -/

theorem applyEvent_inv (h : s.Inv) (e : HostEvent) : (applyEvent s e).Inv := by
  cases e with
  | reset => exact hostReset_inv h
  | irq r => exact iteInduction (fun _ => h) fun _ => ⟨h.mem, h.stale, h.ctxs, h.master⟩
  | dropIrq r => exact ⟨h.mem, h.stale, h.ctxs, h.master⟩
  | markReady i => exact iteInduction (fun _ => wakeCtx_inv h i) fun _ => h
  | clearJtagHalt i =>
    have cleared := h.setCtx i (c := { s.ctxs[i.val] with jtagHalt := false })
      (Ctx.inv_congr (h.ctxs i) rfl rfl rfl) id
    exact iteInduction (fun _ => iteInduction (fun _ => wakeCtx_inv cleared i) fun _ => cleared) fun _ => h
  | busWrite a v => exact iteInduction (fun _ => h.storeByte v a.isLt) fun _ => h

theorem deliver_inv (h : s.Inv) : (deliver s).Inv := by
  unfold deliver
  split
  · exact h
  · exact List.foldlRecOn _ applyEvent ⟨h.mem, h.stale, h.ctxs, h.master⟩ fun _ hs e _ => applyEvent_inv hs e

theorem wakeFor_inv (h : s.Inv) (r : IrqReq) : (wakeFor s r).Inv :=
  have running : State.Inv (if s.cpu = .stopped then { s with cpu := .running } else s) :=
    iteInduction (fun _ => ⟨h.mem, h.stale, h.ctxs, h.master⟩) fun _ => h
  iteInduction (fun _ => wakeCtx_inv running r.ctx) fun _ => running

theorem wake_inv (h : s.Inv) : (wake s).Inv :=
  iteInduction (fun _ => h) fun _ => List.foldlRecOn _ wakeFor h fun _ hs r _ => wakeFor_inv hs r

/-! ### One step (R462) -/

theorem leads_acceptIrq (r : IrqReq) : Leads State.Inv State.Inv (acceptIrq r) := by
  intro s t hs hx
  have closed := inv_systemClosed.toClosed
  have taken : State.Inv { s with irqs := s.irqs.filter fun q => q ≠ r } := ⟨hs.mem, hs.stale, hs.ctxs, hs.master⟩
  unfold acceptIrq at hx
  dsimp only at hx
  split at hx
  · exact keeps_takeEntry closed (keeps_enterException closed _ _ _ _) taken hx
  · exact keeps_takeEntry closed
      (keeps_bind (keeps_flush closed) fun _ => keeps_bind (keeps_readVector _) fun _ => keeps_setPc closed _) taken hx

theorem keeps_raiseLineF {P : State → Prop} : raiseLineF.Keeps P :=
  keeps_bind (keeps_read _) fun _ => keeps_ite_then (keeps_touchExt _ _) fun _ => keeps_raise _

/-- A fetch that fails and a word of class U end in an exception, any other word in its instruction. -/
theorem leads_executeNext : Leads State.Inv State.Inv (executeNext exec) := by
  intro s t hs hx
  have raises : ∀ {body : M Flow}, body.Keeps State.Inv → runInstr 1 body s = .next t → t.Inv := fun hb hr =>
    leads_runInstr inv_systemClosed.toStepClosed (fun _ => hb) s t hs hr
  unfold executeNext at hx
  split at hx
  · exact raises (fun _ h => h) hx
  · split at hx
    · exact exec_inv _ s t hs hx
    · exact raises (keeps_raise _) hx
    · exact raises (keeps_raise _) hx
    · exact raises keeps_raiseLineF hx

/-- Settles O5: the events, the wake-ups, an acceptance and the instruction each keep the invariant. -/
theorem stepKeepsInv : Obligations.StepKeepsInv := by
  intro s t hs hx
  have hwake := wake_inv (deliver_inv hs)
  unfold step advance at hx
  split at hx
  · cases hx
  · cases hx
  · dsimp only at hx
    split at hx
    · split at hx
      · exact leads_acceptIrq _ _ t hwake hx
      · exact leads_executeNext _ t hwake hx
    · cases hx; exact hwake

end

end Sys2Proof.Machine


/-! ## Words and operands, there and back (30_encoding.md R101, R102, R110, R118, R125, R351)

The fields of a word put together from fields are those fields. The library's lemmas on `++` speak of a width that is a
sum, so `simp` is kept from adding the widths up (`-Nat.reduceAdd`). -/

namespace Sys2Proof

/-! ### Fields of words -/

section

variable (line : BitVec 4) (r o m q : BitVec 3)

@[simp] theorem lineOf_opWord : lineOf (opWord line r o m q) = line := by
  simp [lineOf, opWord, BitVec.extractLsb'_append_eq_of_le, -Nat.reduceAdd]

@[simp] theorem fieldR_opWord : fieldR (opWord line r o m q) = r := by
  simp [fieldR, opWord, BitVec.extractLsb'_append_eq_of_le, BitVec.extractLsb'_append_eq_right, -Nat.reduceAdd]

@[simp] theorem fieldO_opWord : fieldO (opWord line r o m q) = o := by
  simp [fieldO, opWord, BitVec.extractLsb'_append_eq_of_le, BitVec.extractLsb'_append_eq_right, -Nat.reduceAdd]

@[simp] theorem fieldM_opWord : fieldM (opWord line r o m q) = m := by
  simp [fieldM, opWord, BitVec.extractLsb'_append_eq_of_le, BitVec.extractLsb'_append_eq_right, -Nat.reduceAdd]

@[simp] theorem fieldQ_opWord : fieldQ (opWord line r o m q) = q := by
  simp [fieldQ, opWord, BitVec.extractLsb'_append_eq_right, -Nat.reduceAdd]

end

/-- The word of an 8-bit immediate (R125). -/
theorem setWidth_byteWord (b : Byte) : BitVec.setWidth 8 (0#8 ++ b : Word) = b := by
  simp [BitVec.setWidth_append, -Nat.reduceAdd]

/-- A register number above 12 further bits: MOVEC (R390). -/
theorem movecWord_fields (xr : BitVec 4) (code : BitVec 12) :
    BitVec.extractLsb' 12 4 (xr ++ code : Word) = xr ∧ BitVec.extractLsb' 0 12 (xr ++ code : Word) = code :=
  ⟨BitVec.extractLsb'_append_eq_left, BitVec.extractLsb'_append_eq_right⟩

/-- A register number, one bit and a reserved field: MOVES, CMP2, CHK2 (R221, R391, R423). -/
theorem registerWord_fields (xr : BitVec 4) (b : BitVec 1) (rsv : BitVec 11) :
    BitVec.extractLsb' 12 4 (xr ++ b ++ rsv : Word) = xr ∧ BitVec.getLsbD (xr ++ b ++ rsv : Word) 11 = b.getLsbD 0 ∧
      BitVec.extractLsb' 0 11 (xr ++ b ++ rsv : Word) = rsv := by
  refine ⟨?_, ?_, BitVec.extractLsb'_append_eq_right⟩
  · simp [BitVec.extractLsb'_append_eq_of_le, -Nat.reduceAdd]
  · simp [BitVec.getLsbD_append, -Nat.reduceAdd, -BitVec.getLsbD_eq_getElem]

/-- The special word of a long multiply or divide (R251). -/
theorem arithWord_fields (r15 : BitVec 1) (l : BitVec 3) (signed : BitVec 1) (quad : Bool) (rsv : BitVec 7)
    (h : BitVec 3) :
    let w : Word := r15 ++ l ++ signed ++ BitVec.ofBool quad ++ rsv ++ h
    w.extractLsb' 15 1 = r15 ∧ w.extractLsb' 12 3 = l ∧ w.getLsbD 11 = signed.getLsbD 0 ∧ w.getLsbD 10 = quad ∧
      w.extractLsb' 3 7 = rsv ∧ w.extractLsb' 0 3 = h := by
  refine ⟨?_, ?_, ?_, ?_, ?_, BitVec.extractLsb'_append_eq_right⟩
  · simp [BitVec.extractLsb'_append_eq_of_le, -Nat.reduceAdd]
  · simp [BitVec.extractLsb'_append_eq_of_le, BitVec.extractLsb'_append_eq_right, -Nat.reduceAdd]
  · simp [BitVec.getLsbD_append, -Nat.reduceAdd, -BitVec.getLsbD_eq_getElem]
  · simp [BitVec.getLsbD_append, -Nat.reduceAdd, -BitVec.getLsbD_eq_getElem]
  · simp [BitVec.extractLsb'_append_eq_of_le, BitVec.extractLsb'_append_eq_right, -Nat.reduceAdd]

/-! ### Words of a list -/

@[simp] theorem wordAt_zero (w : Word) (ws : List Word) : wordAt (w :: ws) 0 = w := rfl
@[simp] theorem wordAt_succ (w : Word) (ws : List Word) (k : Nat) : wordAt (w :: ws) (k + 1) = wordAt ws k := rfl

/-- The two halves of a long word put together again (R62). -/
theorem append_halves (v : Long) : v.extractLsb' 16 16 ++ v.extractLsb' 0 16 = v := by
  have halves := BitVec.extractLsb'_append_extractLsb'_eq_extractLsb' (x := v) (start₁ := 0) (start₂ := 16)
    (len₁ := 16) (len₂ := 16) rfl
  exact halves.trans BitVec.extractLsb'_eq_self

@[simp] theorem longAt_longWords (v : Long) (rest : List Word) : longAt (longWords v ++ rest) 0 = v := append_halves v
@[simp] theorem drop_longWords (v : Long) (rest : List Word) : (longWords v ++ rest).drop 2 = rest := rfl

/-! ### Index extensions (R118, R123) -/

/-- A brief extension word. -/
theorem briefWord_fields (x : Index) (d : Byte) :
    let w : Word := x.reg ++ BitVec.ofBool x.long ++ x.scale ++ 0#1 ++ d
    fullBit w = false ∧ parseIndex w = x ∧ w.setWidth 8 = d := by
  refine ⟨?_, ?_, ?_⟩
  · simp [fullBit, BitVec.getLsbD_append, -Nat.reduceAdd, -BitVec.getLsbD_eq_getElem]
  · simp [parseIndex, BitVec.getLsbD_append, BitVec.extractLsb'_append_eq_of_le, BitVec.extractLsb'_append_eq_right,
      -Nat.reduceAdd, -BitVec.getLsbD_eq_getElem]
  · simp [BitVec.setWidth_append, -Nat.reduceAdd]

section

variable (x : Index) (bs is : Bool) (size : BitVec 2)

@[simp] theorem fullBit_fullWord : fullBit (fullWord x bs is size) = true := by
  simp [fullBit, fullWord, BitVec.getLsbD_append, -Nat.reduceAdd, -BitVec.getLsbD_eq_getElem]

@[simp] theorem bdSize_fullWord : bdSize (fullWord x bs is size) = size := by
  simp [bdSize, fullWord, BitVec.extractLsb'_append_eq_of_le, BitVec.extractLsb'_append_eq_right, -Nat.reduceAdd]

@[simp] theorem parseIndex_fullWord : parseIndex (fullWord x bs is size) = x := by
  simp [parseIndex, fullWord, BitVec.getLsbD_append, BitVec.extractLsb'_append_eq_of_le,
    BitVec.extractLsb'_append_eq_right, -Nat.reduceAdd, -BitVec.getLsbD_eq_getElem]

@[simp] theorem fullWord_bit7 : (fullWord x bs is size)[7] = bs := by
  rw [← BitVec.getLsbD_eq_getElem]
  simp [fullWord, BitVec.getLsbD_append, -Nat.reduceAdd, -BitVec.getLsbD_eq_getElem]

@[simp] theorem fullWord_bit6 : (fullWord x bs is size)[6] = is := by
  rw [← BitVec.getLsbD_eq_getElem]
  simp [fullWord, BitVec.getLsbD_append, -Nat.reduceAdd, -BitVec.getLsbD_eq_getElem]

@[simp] theorem fullWord_bit3 : (fullWord x bs is size)[3] = false := by
  rw [← BitVec.getLsbD_eq_getElem]
  simp [fullWord, BitVec.getLsbD_append, -Nat.reduceAdd, -BitVec.getLsbD_eq_getElem]

@[simp] theorem iisField_fullWord : iisField (fullWord x bs is size) = 0#3 := by
  simp [iisField, fullWord, BitVec.extractLsb'_append_eq_of_add_le, -Nat.reduceAdd]

@[simp] theorem fullTraps_fullWord : fullTraps (fullWord x bs is size) = (size == 0#2) := by simp [fullTraps]

@[simp] theorem fullUnstated_fullWord : fullUnstated (fullWord x bs is size) = (bs && is && size == 1#2) := by
  simp [fullUnstated]

end

/-- An index extension is parsed back from its words. -/
theorem parseIdxExt_words {x : IdxExt} (h : x.ok = true) (rest : List Word) :
    parseIdxExt (x.words ++ rest) = (x, rest) := by
  cases x with
  | brief i d =>
    obtain ⟨hbrief, hindex, hdisp⟩ := briefWord_fields i d
    simp [parseIdxExt, IdxExt.words, hbrief, hindex, hdisp]
  | full i bs is bd =>
    cases bd with
    | null =>
      have someUsed : (!(bs && is && true)) = true := h
      rw [Bool.and_true, Bool.not_eq_true'] at someUsed
      simp [parseIdxExt, IdxExt.words, someUsed]
    | word d => simp [parseIdxExt, IdxExt.words]
    | long d =>
      have disp : longAt (fullWord i bs is 3#2 :: (longWords d ++ rest)) 1 = d := longAt_longWords d rest
      simp [parseIdxExt, IdxExt.words, disp]
  | illegal w =>
    obtain ⟨hfull, htraps⟩ := Bool.and_eq_true_iff.1 h
    simp [parseIdxExt, IdxExt.words, hfull, htraps]
  | unstated w =>
    simp only [IdxExt.ok, Bool.and_eq_true, Bool.not_eq_true'] at h
    obtain ⟨⟨hfull, htraps⟩, hunstated⟩ := h
    simp [parseIdxExt, IdxExt.words, hfull, htraps, hunstated]

/-! ### Effective addresses (R110, R111, R125) -/

/-- An immediate that fits its size is parsed back from its words. -/
theorem parseImm_words {sz : Size} {v : Long} (h : immFits sz v = true) (rest : List Word) :
    parseImm sz (immWords sz v ++ rest) = (.imm v, rest) := by
  cases sz with
  | b =>
    have kept : (v.setWidth 8).setWidth 32 = v := BitVec.setWidth_setWidth_eq_self (of_decide_eq_true h)
    simp [parseImm, immWords, setWidth_byteWord, kept]
  | w =>
    have kept : (v.setWidth 16).setWidth 32 = v := BitVec.setWidth_setWidth_eq_self (of_decide_eq_true h)
    simp [parseImm, immWords, kept]
  | l => exact congrArg (fun v => (EA.imm v, rest)) (longAt_longWords v rest)

/-- An effective address is parsed back from its fields and its words, and the words after it are left. -/
theorem parseEA_exts {ea : EA} {sz : Size} (h : ea.ok sz = true) (rest : List Word) :
    parseEA ea.mode ea.reg sz (ea.exts sz ++ rest) = some (ea, rest) := by
  cases ea with
  | dn | an | ind | postinc | predec | disp | absW | pcDisp => rfl
  | absL a => exact congrArg (fun v => some (EA.absL v, rest)) (longAt_longWords a rest)
  | idx n x => exact congrArg (fun p => some (EA.idx n p.1, p.2)) (parseIdxExt_words h rest)
  | pcIdx x => exact congrArg (fun p => some (EA.pcIdx p.1, p.2)) (parseIdxExt_words h rest)
  | imm v => exact congrArg some (parseImm_words h rest)

/-- An operand that the set has, before any further words. -/
theorem withEa_exts {set : EaSet} {sz : Size} {ea : EA} (h : (set.admits ea && ea.ok sz) = true) (rest : List Word)
    (mk : EA → Instr) : withEa set sz ea.mode ea.reg (ea.exts sz ++ rest) mk = .instr (mk ea) := by
  obtain ⟨hset, hok⟩ := Bool.and_eq_true_iff.1 h
  rw [withEa, parseEA_exts hok]
  exact if_pos hset

/-- A branch displacement (R351). -/
theorem parseDisp_exts {d : Disp} (h : d.ok = true) (rest : List Word) : parseDisp d.low8 (d.exts ++ rest) = d := by
  cases d with
  | byte b =>
    obtain ⟨h0, hff⟩ : b ≠ 0#8 ∧ b ≠ 0xFF#8 := by simpa [Disp.ok] using h
    rw [parseDisp, Disp.low8, if_neg h0, if_neg hff]
  | word w => rfl
  | long v => exact congrArg Disp.long (longAt_longWords v rest)

/-! ### Modes that a set leaves out (R130) -/

section

variable {set : EaSet} {sz : Size} {ea : EA}

theorem EA.mode_ne_dn (h : (set.admits ea && ea.ok sz) = true) (hset : set.admits (.dn 0#3) = false) :
    ea.mode ≠ 0#3 := by
  cases ea with
  | dn n => exact absurd (Bool.and_eq_true_iff.1 h).1 (Bool.eq_false_iff.1 hset)
  | _ => simp [EA.mode]

theorem EA.mode_ne_an (h : (set.admits ea && ea.ok sz) = true) (hset : set.admits (.an 0#3) = false) :
    ea.mode ≠ 1#3 := by
  cases ea with
  | an n => exact absurd (Bool.and_eq_true_iff.1 h).1 (Bool.eq_false_iff.1 hset)
  | _ => simp [EA.mode]

theorem EA.not_register (h : (set.admits ea && ea.ok sz) = true) (hdn : set.admits (.dn 0#3) = false)
    (han : set.admits (.an 0#3) = false) : ¬ (ea.mode = 0#3 ∨ ea.mode = 1#3) :=
  not_or.2 ⟨EA.mode_ne_dn h hdn, EA.mode_ne_an h han⟩

theorem EA.not_pcRelative (h : (set.admits ea && ea.ok sz) = true) (hdisp : set.admits (.pcDisp 0#16) = false) :
    ¬ (ea.mode = 7#3 ∧ (ea.reg = 2#3 ∨ ea.reg = 3#3)) := by
  cases ea with
  | pcDisp | pcIdx => exact absurd (Bool.and_eq_true_iff.1 h).1 (Bool.eq_false_iff.1 hdisp)
  | _ => simp [EA.mode, EA.reg]

theorem EA.not_immediate (h : (set.admits ea && ea.ok sz) = true) (himm : set.admits (.imm 0#32) = false) :
    ¬ (ea.mode = 7#3 ∧ ea.reg = 4#3) := by
  cases ea with
  | imm v => exact absurd (Bool.and_eq_true_iff.1 h).1 (Bool.eq_false_iff.1 himm)
  | _ => simp [EA.mode, EA.reg]

end

/-! ### Decoding an operation word, line by line (R140) -/

section

variable (r o m q : BitVec 3) (ws : List Word)

theorem decode_line0 : decode (opWord 0#4 r o m q) ws =
    if o.getLsbD 2 then decodeLine0High r o m q ws else decodeLine0Low r o m q ws := by simp [decode]

theorem decode_line1 : decode (opWord 1#4 r o m q) ws =
    decodeMove .b .data .moveB (fun _ _ => none) r o m q ws := by simp [decode]

theorem decode_line2 : decode (opWord 2#4 r o m q) ws =
    decodeMove .l .all .moveL (fun src n => some (.moveaL src n)) r o m q ws := by simp [decode]

theorem decode_line3 : decode (opWord 3#4 r o m q) ws =
    decodeMove .w .all .moveW (fun src n => some (.moveaW src n)) r o m q ws := by simp [decode]

theorem decode_line4 : decode (opWord 4#4 r o m q) ws = decodeLine4 r o m q ws := by simp [decode]

theorem decode_line5 : decode (opWord 5#4 r o m q) ws = decodeLine5 r o m q ws := by simp [decode]

theorem decode_line8 : decode (opWord 8#4 r o m q) ws = decodeLine8 r o m q ws := by simp [decode]

theorem decode_line9 : decode (opWord 9#4 r o m q) ws = decodeLine9 r o m q ws := by simp [decode]

theorem decode_lineB : decode (opWord 11#4 r o m q) ws = decodeLineB r o m q ws := by simp [decode]

theorem decode_lineC : decode (opWord 12#4 r o m q) ws = decodeLineC r o m q ws := by simp [decode]

theorem decode_lineD : decode (opWord 13#4 r o m q) ws = decodeLineD r o m q ws := by simp [decode]

theorem decode_lineE : decode (opWord 14#4 r o m q) ws = decodeLineE r o m q ws := by simp [decode]

end

theorem decode_branch (cc : BitVec 4) (d8 : Byte) (ws : List Word) :
    decode (6#4 ++ cc ++ d8 : Word) ws = decodeLine6 cc d8 ws := by
  have line : lineOf (6#4 ++ cc ++ d8 : Word) = 6#4 := by
    simp [lineOf, BitVec.extractLsb'_append_eq_of_le, -Nat.reduceAdd]
  have cond : BitVec.extractLsb' 8 4 (6#4 ++ cc ++ d8 : Word) = cc := by
    simp [BitVec.extractLsb'_append_eq_of_le, BitVec.extractLsb'_append_eq_right, -Nat.reduceAdd]
  have low : BitVec.setWidth 8 (6#4 ++ cc ++ d8 : Word) = d8 := by
    simp [BitVec.setWidth_append, -Nat.reduceAdd]
  simp only [decode, line, cond, low]
  rfl

theorem decode_moveq (r : BitVec 3) (d : Byte) (ws : List Word) :
    decode (7#4 ++ r ++ 0#1 ++ d : Word) ws = .instr (.moveq r d) := by
  have line : lineOf (7#4 ++ r ++ 0#1 ++ d : Word) = 7#4 := by
    simp [lineOf, BitVec.extractLsb'_append_eq_of_le, -Nat.reduceAdd]
  have reg : fieldR (7#4 ++ r ++ 0#1 ++ d : Word) = r := by
    simp [fieldR, BitVec.extractLsb'_append_eq_of_le, BitVec.extractLsb'_append_eq_right, -Nat.reduceAdd]
  have bit8 : (fieldO (7#4 ++ r ++ 0#1 ++ d : Word)).getLsbD 2 = false := by
    simp [fieldO, BitVec.getLsbD_append, -Nat.reduceAdd, -BitVec.getLsbD_eq_getElem]
  have low : BitVec.setWidth 8 (7#4 ++ r ++ 0#1 ++ d : Word) = d := by
    simp [BitVec.setWidth_append, -Nat.reduceAdd]
  simp only [decode, line, reg, bit8, low]
  rfl

theorem decode_lineA {w : Word} (h : lineOf w = 10#4) (ws : List Word) : decode w ws = .lineA := by
  rw [decode, h]
  rfl

theorem decode_lineF {w : Word} (h : lineOf w = 15#4) (ws : List Word) : decode w ws =
    if w = 0xF800#16 ∧ wordAt ws 0 = 0x01C0#16 then .instr (.lpstop (wordAt ws 1)) else .lineF := by
  rw [decode, h]
  rfl

/-! ## Decoding an encoded instruction (30_encoding.md R100, R101, R140)

An instruction is encoded as its operation word, the words that are its own and the words of its operands. The line of
the operation word selects one of the decoders; there each test that comes before the instruction fails by the set its
operand is in, and the operand is parsed back. -/

/-! ### Instructions with a word of their own before the operand's -/

section

variable {set : EaSet} {sz : Size} {ea : EA} {rest : List Word}

/-- A byte immediate or bit number before an operand (R101, R125). -/
theorem withEa_byte (h : (set.admits ea && ea.ok sz) = true) (v : Byte) (mk : Byte → EA → Instr) :
    withEa set sz ea.mode ea.reg (ea.exts sz ++ rest) (mk (BitVec.setWidth 8 (0#8 ++ v : Word))) =
      .instr (mk v ea) := by
  rw [setWidth_byteWord, withEa_exts h]

/-- A long immediate before an operand (R101, R125). -/
theorem withEa_long (h : (set.admits ea && ea.ok sz) = true) (v : Long) (mk : Long → EA → Instr) :
    withEa set sz ea.mode ea.reg (ea.exts sz ++ rest) (mk (longAt (longWords v ++ (ea.exts sz ++ rest)) 0)) =
      .instr (mk v ea) := by
  rw [longAt_longWords, withEa_exts h]

theorem movesInstr_words (h : (EaSet.malt.admits ea && ea.ok sz) = true) (xr : BitVec 4) (toMem : Bool)
    (rsv : BitVec 11) (mk : BitVec 4 → Bool → BitVec 11 → EA → Instr) :
    movesInstr sz ea.mode ea.reg ((xr ++ BitVec.ofBool toMem ++ rsv : Word) :: (ea.exts sz ++ rest)) mk =
      .instr (mk xr toMem rsv ea) := by
  obtain ⟨hreg, hbit, hrsv⟩ := registerWord_fields xr (BitVec.ofBool toMem) rsv
  have dir : (BitVec.ofBool toMem).getLsbD 0 = toMem := by simp
  simp only [movesInstr, wordAt_zero, hreg, hbit, hrsv, dir, List.drop_succ_cons, List.drop_zero, withEa_exts h]

theorem boundsInstr_words (h : (EaSet.ctrl.admits ea && ea.ok sz) = true) (xr : BitVec 4) (b : BitVec 1)
    (rsv : BitVec 11) (cmp chk : BitVec 4 → BitVec 11 → EA → Instr) :
    boundsInstr sz ea.mode ea.reg ((xr ++ b ++ rsv : Word) :: (ea.exts sz ++ rest)) cmp chk =
      .instr ((if b.getLsbD 0 then chk else cmp) xr rsv ea) := by
  obtain ⟨hreg, hbit, hrsv⟩ := registerWord_fields xr b rsv
  simp only [boundsInstr, wordAt_zero, hreg, hbit, hrsv, List.drop_succ_cons, List.drop_zero, withEa_exts h]

theorem longArith_words (h : (EaSet.data.admits ea && ea.ok .l) = true) (r15 : BitVec 1) (l : BitVec 3)
    (signed : BitVec 1) (quad : Bool) (rsv : BitVec 7) (dh : BitVec 3)
    (mkU mkS : BitVec 1 → BitVec 3 → Bool → BitVec 7 → BitVec 3 → EA → Instr) :
    longArith ea.mode ea.reg
        ((r15 ++ l ++ signed ++ BitVec.ofBool quad ++ rsv ++ dh : Word) :: (ea.exts .l ++ rest)) mkU mkS =
      .instr ((if signed.getLsbD 0 then mkS else mkU) r15 l quad rsv dh ea) := by
  obtain ⟨h15, hl, hsigned, hquad, hrsv, hh⟩ := arithWord_fields r15 l signed quad rsv dh
  simp only [longArith, wordAt_zero, h15, hl, hsigned, hquad, hrsv, hh, List.drop_succ_cons, List.drop_zero,
    withEa_exts h]

/-- MOVE: the source's words, then the destination's (R101, R142). -/
theorem decodeMove_move {src dst : EA} (h : (set.admits src && src.ok sz && EaSet.dalt.admits dst && dst.ok sz) = true)
    (mk : EA → EA → Instr) (mkA : EA → BitVec 3 → Option Instr) :
    decodeMove sz set mk mkA dst.reg dst.mode src.mode src.reg (src.exts sz ++ dst.exts sz ++ rest) =
      .instr (mk src dst) := by
  simp only [Bool.and_eq_true] at h
  obtain ⟨⟨⟨hset, hsrc⟩, hdalt⟩, hdst⟩ := h
  have hd := Bool.and_eq_true_iff.2 ⟨hdalt, hdst⟩
  rw [decodeMove, List.append_assoc, parseEA_exts hsrc]
  simp [hset, EA.mode_ne_an hd rfl, withEa_exts hd]

theorem decodeMove_movea {src : EA} (h : (set.admits src && src.ok sz) = true) (mk : EA → EA → Instr)
    (mkA : EA → BitVec 3 → Instr) (r : BitVec 3) :
    decodeMove sz set mk (fun src n => some (mkA src n)) r 1#3 src.mode src.reg (src.exts sz ++ rest) =
      .instr (mkA src r) := by
  obtain ⟨hset, hok⟩ := Bool.and_eq_true_iff.1 h
  rw [decodeMove, parseEA_exts hok]
  simp [hset]

end

/-! ### Values that stand in two fields, and fields with a fixed part -/

/-- The vector of TRAP: its high bit is the Mode field's low bit (R143, R424). -/
theorem decodeLine4Control_trap (v : BitVec 4) (ws : List Word) :
    decodeLine4Control (0#2 ++ v.extractLsb' 3 1) (v.extractLsb' 0 3) ws = .instr (.trap v) := by
  have halves : ∀ v : BitVec 4, (0#2 ++ v.extractLsb' 3 1 = 0#3 ∧ 0#1 ++ v.extractLsb' 0 3 = v) ∨
      (0#2 ++ v.extractLsb' 3 1 = 1#3 ∧ 1#1 ++ v.extractLsb' 0 3 = v) := by decide
  rcases halves v with ⟨hm, hv⟩ | ⟨hm, hv⟩
  · rw [hm]
    exact congrArg (Decoded.instr ∘ .trap) hv
  · rw [hm]
    exact congrArg (Decoded.instr ∘ .trap) hv

/-- The vector of TRAPX, by Modes 110 and 111 (R143, R428). -/
theorem decodeLine4_trapx (v : BitVec 4) (ws : List Word) :
    decodeLine4 7#3 0#3 (3#2 ++ v.extractLsb' 3 1) (v.extractLsb' 0 3) ws = .instr (.trapx v) := by
  have halves : ∀ v : BitVec 4, (3#2 ++ v.extractLsb' 3 1 = 6#3 ∧ 0#1 ++ v.extractLsb' 0 3 = v) ∨
      (3#2 ++ v.extractLsb' 3 1 = 7#3 ∧ 1#1 ++ v.extractLsb' 0 3 = v) := by decide
  rcases halves v with ⟨hm, hv⟩ | ⟨hm, hv⟩
  · rw [hm]
    exact congrArg (Decoded.instr ∘ .trapx) hv
  · rw [hm]
    exact congrArg (Decoded.instr ∘ .trapx) hv

/-- The second half of line 0101: the condition in bits 11 to 8, 11 in bits 7 and 6 (R144, R350). -/
theorem decodeLine5_cond (cc : BitVec 4) (m q : BitVec 3) (ws : List Word) :
    decodeLine5 (cc.extractLsb' 1 3) (cc.extractLsb' 0 1 ++ 3#2) m q ws =
      if m = 1#3 then .instr (.dbcc cc q (wordAt ws 0))
      else if m = 7#3 ∧ q = 2#3 then .instr (.trapccW cc (wordAt ws 0))
      else if m = 7#3 ∧ q = 3#3 then .instr (.trapccL cc (longAt ws 0))
      else if m = 7#3 ∧ q = 4#3 then .instr (.trapcc cc)
      else withEa .dalt .b m q ws (.scc cc) := by
  have fields : ∀ cc : BitVec 4, ccOf (cc.extractLsb' 1 3) (cc.extractLsb' 0 1 ++ 3#2) = cc ∧
      (cc.extractLsb' 0 1 ++ 3#2 = 3#3 ∨ cc.extractLsb' 0 1 ++ 3#2 = 7#3) := by decide
  obtain ⟨hcc, ho | ho⟩ := fields cc
  · rw [decodeLine5, hcc, ho]
    rfl
  · rw [decodeLine5, hcc, ho]
    rfl

/-- The Register field of the two PC-relative modes (R110). -/
theorem pcRelative_field (e : BitVec 1) :
    (1#2 ++ e = 2#3 ∨ 1#2 ++ e = 3#3) ∧ BitVec.extractLsb' 0 1 (1#2 ++ e) = e := by
  revert e
  decide

/-! ### The round trip -/

/-- The decoder on a list of words, the operation word first. -/
def decodeWords (ws : List Word) : Decoded := decode (wordAt ws 0) (ws.drop 1)

theorem decodeWords_cons (w : Word) (ws : List Word) : decodeWords (w :: ws) = decode w ws := rfl

/-- What follows an encoded instruction does not change what it decodes to. -/
theorem decodeWords_encode (i : Instr) (h : i.ok = true) (rest : List Word) :
    decodeWords (encode i ++ rest) = .instr i := by
  cases i with
  -- line 0000
  | subiB | addiB | cmpiB | btst | bchg | bclr | bset => exact (decode_line0 ..).trans (withEa_byte h _ _)
  | subiW | addiW | cmpiW => exact (decode_line0 ..).trans (withEa_exts h rest _)
  | subiL | addiL | cmpiL => exact (decode_line0 ..).trans (withEa_long h _ _)
  | oriB | andiB | eoriB =>
    exact (decode_line0 ..).trans ((if_neg (EA.not_immediate h rfl)).trans (withEa_byte h _ _))
  | oriW | andiW | eoriW =>
    exact (decode_line0 ..).trans ((if_neg (EA.not_immediate h rfl)).trans (withEa_exts h rest _))
  | oriL | andiL | eoriL =>
    exact (decode_line0 ..).trans ((if_neg (EA.not_immediate h rfl)).trans (withEa_long h _ _))
  | oriToCcr v => exact (decode_line0 ..).trans (congrArg (Decoded.instr ∘ .oriToCcr) (setWidth_byteWord v))
  | andiToCcr v => exact (decode_line0 ..).trans (congrArg (Decoded.instr ∘ .andiToCcr) (setWidth_byteWord v))
  | eoriToCcr v => exact (decode_line0 ..).trans (congrArg (Decoded.instr ∘ .eoriToCcr) (setWidth_byteWord v))
  | oriToSr | andiToSr | eoriToSr => exact decode_line0 ..
  | movesB | movesW | movesL => exact (decode_line0 ..).trans (movesInstr_words h _ _ _ _)
  | cmp2B | cmp2W | cmp2L | chk2B | chk2W | chk2L => exact (decode_line0 ..).trans (boundsInstr_words h _ _ _ _ _)
  | movepLoadW | movepLoadL | movepStoreW | movepStoreL => exact decode_line0 ..
  | btstDn | bchgDn | bclrDn | bsetDn =>
    exact (decode_line0 ..).trans ((if_neg (EA.mode_ne_an h rfl)).trans (withEa_exts h rest _))
  -- lines 0001 to 0011
  | moveB => exact (decode_line1 ..).trans (decodeMove_move h _ _)
  | moveW => exact (decode_line3 ..).trans (decodeMove_move h _ _)
  | moveL => exact (decode_line2 ..).trans (decodeMove_move h _ _)
  | moveaW => exact (decode_line3 ..).trans (decodeMove_movea h _ _ _)
  | moveaL => exact (decode_line2 ..).trans (decodeMove_movea h _ _ _)
  -- line 0100
  | negxB | negxW | negxL | clrB | clrW | clrL | negB | negW | negL | notB | notW | notL | moveFromSr | moveFromCcr
  | moveToCcr | tstB | tstW | tstL | jsr | jmp => exact (decode_line4 ..).trans (withEa_exts h rest _)
  | refusedMoveToSr | swap | bkpt | extW | extL | extbL | bgnd | illegal | linkW | unlk | moveToUsp | moveFromUsp
  | reset | nop | stop | rte | rtd | rts | trapv | rtr | sleep | refusedChkImmW | refusedChkImmL =>
    exact decode_line4 ..
  | nbcd => exact (decode_line4 ..).trans ((if_neg (EA.mode_ne_an h rfl)).trans (withEa_exts h rest _))
  | linkL r d => exact (decode_line4 ..).trans (congrArg (Decoded.instr ∘ .linkL r) (longAt_longWords d rest))
  | pea =>
    exact (decode_line4 ..).trans ((if_neg (EA.mode_ne_dn h rfl)).trans ((if_neg (EA.mode_ne_an h rfl)).trans
      (withEa_exts h rest _)))
  | movemStoreW | movemStoreL | lea =>
    exact (decode_line4 ..).trans ((if_neg (EA.mode_ne_dn h rfl)).trans (withEa_exts h rest _))
  | movemLoadW | movemLoadL =>
    exact (decode_line4 ..).trans ((if_neg (EA.not_pcRelative h rfl)).trans (withEa_exts h rest _))
  | refusedMovemPcW e | refusedMovemPcL e =>
    obtain ⟨hq, he⟩ := pcRelative_field e
    exact (decode_line4 ..).trans ((if_pos ⟨rfl, hq⟩).trans (congrArg (Decoded.instr ∘ _) he))
  | tas =>
    exact (decode_line4 ..).trans ((if_neg fun hpc => EA.not_pcRelative h rfl ⟨hpc.1, .inl hpc.2⟩).trans
      ((if_neg (EA.not_immediate h rfl)).trans (withEa_exts h rest _)))
  | muluL | mulsL | divuL | divsL => exact (decode_line4 ..).trans (longArith_words h _ _ _ _ _ _ _ _)
  | trapx v => exact (decode_line4 ..).trans (decodeLine4_trapx v rest)
  | trap v => exact (decode_line4 ..).trans (decodeLine4Control_trap v rest)
  | movecFromCr xr code =>
    obtain ⟨hreg, hcode⟩ := movecWord_fields xr code
    exact (decode_line4 ..).trans (congrArg₂ (fun k c => Decoded.instr (.movecFromCr k c)) hreg hcode)
  | movecToCr xr code =>
    obtain ⟨hreg, hcode⟩ := movecWord_fields xr code
    exact (decode_line4 ..).trans (congrArg₂ (fun k c => Decoded.instr (.movecToCr k c)) hreg hcode)
  | chkW | chkL => exact (decode_line4 ..).trans ((if_neg (EA.not_immediate h rfl)).trans (withEa_exts h rest _))
  -- line 0101
  | addqB | addqW | addqL | subqB | subqW | subqL => exact (decode_line5 ..).trans (withEa_exts h rest _)
  | scc cc dst =>
    refine (decode_line5 ..).trans ((decodeLine5_cond ..).trans ?_)
    rw [if_neg (EA.mode_ne_an h rfl), if_neg fun hpc => EA.not_pcRelative h rfl ⟨hpc.1, .inl hpc.2⟩,
      if_neg fun hpc => EA.not_pcRelative h rfl ⟨hpc.1, .inr hpc.2⟩, if_neg (EA.not_immediate h rfl)]
    exact withEa_exts h rest _
  | dbcc | trapccW | trapcc => exact (decode_line5 ..).trans (decodeLine5_cond ..)
  | trapccL cc v =>
    exact (decode_line5 ..).trans ((decodeLine5_cond ..).trans
      (congrArg (Decoded.instr ∘ .trapccL cc) (longAt_longWords v rest)))
  -- lines 0110 and 0111
  | bra | bsr | bhi | bls | bcc | bcs | bne | beq | bvc | bvs | bpl | bmi | bge | blt | bgt | ble =>
    exact (decode_branch ..).trans (congrArg (Decoded.instr ∘ _) (parseDisp_exts h rest))
  | moveq r d => exact decode_moveq r d rest
  -- line 1000
  | orToDnB | orToDnW | orToDnL =>
    exact (decode_line8 ..).trans ((if_neg (mt of_decide_eq_true (EA.not_pcRelative h rfl))).trans
      ((if_neg (mt of_decide_eq_true (EA.not_immediate h rfl))).trans (withEa_exts h rest _)))
  | refusedOrPcB r e | refusedOrPcW r e | refusedOrPcL r e =>
    obtain ⟨hq, he⟩ := pcRelative_field e
    exact (decode_line8 ..).trans ((if_pos (decide_eq_true ⟨rfl, hq⟩)).trans (congrArg (Decoded.instr ∘ _) he))
  | refusedOrImmB | refusedOrImmW | refusedOrImmL | refusedOrRegW | refusedOrRegL | refusedDivsImm =>
    exact decode_line8 ..
  | divuW => exact (decode_line8 ..).trans (withEa_exts h rest _)
  | divsW =>
    exact (decode_line8 ..).trans ((if_neg (mt of_decide_eq_true (EA.not_immediate h rfl))).trans
      (withEa_exts h rest _))
  | orToEaB =>
    exact (decode_line8 ..).trans ((if_neg (EA.not_register h rfl rfl)).trans (withEa_exts h rest _))
  | orToEaW | orToEaL =>
    exact (decode_line8 ..).trans ((if_neg (EA.mode_ne_dn h rfl)).trans (withEa_exts h rest _))
  | sbcd x mem => cases mem <;> exact decode_line8 ..
  -- line 1001
  | subToDnB | subToDnW | subToDnL | subaW | subaL => exact (decode_line9 ..).trans (withEa_exts h rest _)
  | subToEaB | subToEaW | subToEaL =>
    exact (decode_line9 ..).trans ((if_neg (mt of_decide_eq_true (EA.not_register h rfl rfl))).trans
      (withEa_exts h rest _))
  | subxB x mem | subxW x mem | subxL x mem => cases mem <;> exact decode_line9 ..
  -- line 1011
  | cmpB | cmpW | cmpL | cmpaW | cmpaL => exact (decode_lineB ..).trans (withEa_exts h rest _)
  | eorB | eorW | eorL =>
    exact (decode_lineB ..).trans ((if_neg (EA.mode_ne_an h rfl)).trans (withEa_exts h rest _))
  | cmpmB | cmpmW | cmpmL => exact decode_lineB ..
  -- line 1100
  | andToDnB | andToDnW | andToDnL | muluW | mulsW => exact (decode_lineC ..).trans (withEa_exts h rest _)
  | andToEaB =>
    exact (decode_lineC ..).trans ((if_neg (EA.not_register h rfl rfl)).trans (withEa_exts h rest _))
  | andToEaW =>
    exact (decode_lineC ..).trans ((if_neg (EA.mode_ne_dn h rfl)).trans ((if_neg (EA.mode_ne_an h rfl)).trans
      (withEa_exts h rest _)))
  | andToEaL => exact (decode_lineC ..).trans ((if_neg (EA.mode_ne_an h rfl)).trans (withEa_exts h rest _))
  | abcd x mem => cases mem <;> exact decode_lineC ..
  | exgDD | exgAA | exgDA => exact decode_lineC ..
  -- line 1101
  | addToDnB | addToDnW | addToDnL | addaW | addaL => exact (decode_lineD ..).trans (withEa_exts h rest _)
  | addToEaB | addToEaW | addToEaL =>
    exact (decode_lineD ..).trans ((if_neg (mt of_decide_eq_true (EA.not_register h rfl rfl))).trans
      (withEa_exts h rest _))
  | addxB x mem | addxW x mem | addxL x mem => cases mem <;> exact decode_lineD ..
  -- line 1110
  | aslMem | asrMem | lslMem | lsrMem | roxlMem | roxrMem | rolMem | rorMem =>
    exact (decode_lineE ..).trans (withEa_exts h rest _)
  | aslB k i | aslW k i | aslL k i | asrB k i | asrW k i | asrL k i | lslB k i | lslW k i | lslL k i | lsrB k i
  | lsrW k i | lsrL k i | roxlB k i | roxlW k i | roxlL k i | roxrB k i | roxrW k i | roxrL k i | rolB k i | rolW k i
  | rolL k i | rorB k i | rorW k i | rorL k i => cases i <;> exact decode_lineE ..
  -- line 1111
  | lpstop => exact (decode_lineF (w := 0xF800#16) rfl _).trans (if_pos ⟨rfl, rfl⟩)

/-! ### The length of an instruction (R5, R104) -/

theorem encode_ne_nil (i : Instr) : encode i ≠ [] := by cases i <;> exact List.cons_ne_nil _ _

theorem IdxExt.length_words_le (x : IdxExt) : x.words.length ≤ 3 := by
  cases x with
  | full i bs is bd => cases bd <;> simp [IdxExt.words, longWords]
  | _ => simp [IdxExt.words]

theorem EA.length_exts_le (ea : EA) (sz : Size) : (ea.exts sz).length ≤ 3 := by
  cases ea with
  | idx n x => exact x.length_words_le
  | pcIdx x => exact x.length_words_le
  | imm v => cases sz <;> simp [EA.exts, immWords, longWords]
  | _ => simp [EA.exts, longWords]

theorem Disp.length_exts_le (d : Disp) : d.exts.length ≤ 2 := by
  cases d <;> simp [Disp.exts, longWords]

/-- Beside its operation word an instruction has at most two operands of three words each. -/
theorem length_encode_le (i : Instr) : (encode i).length ≤ maxWords := by
  have one : ∀ {ea : EA} {sz : Size} {n : Nat}, 3 ≤ n → (ea.exts sz).length ≤ n := fun hn =>
    Nat.le_trans (EA.length_exts_le _ _) hn
  have two : ∀ {a b : EA} {sz : Size}, (a.exts sz).length + (b.exts sz).length ≤ 6 :=
    Nat.add_le_add (EA.length_exts_le _ _) (EA.length_exts_le _ _)
  have disp : ∀ {d : Disp}, d.exts.length ≤ 6 := Nat.le_trans (Disp.length_exts_le _) (by decide)
  cases i <;> simp +arith [encode, maxWords, longWords, one, two, disp]

/-! ### From memory (R62, R65) -/

namespace Machine

/-- The `n` instruction words of memory from `a` on. -/
def State.codeWords (s : State) (a : Long) : Nat → List Word
  | 0 => []
  | n + 1 => s.codeWord a :: s.codeWords (a + 2#32) n

theorem wordsOfBytes_bytesFrom (s : State) (a : Long) (n : Nat) :
    wordsOfBytes (bytesFrom s a (2 * n)) = s.codeWords a n := by
  induction n generalizing a with
  | zero => rfl
  | succ n ih =>
    have next : a + 1#32 + 1#32 = a + 2#32 := BitVec.add_assoc a 1#32 1#32
    rw [State.codeWords, ← ih, ← next]
    rfl

/-- The instruction at the pc is decoded from the words there. -/
theorem fetchDecode_eq_decodeWords (s : State) : fetchDecode s = decodeWords (s.codeWords s.ctx.pc maxWords) :=
  congrArg decodeWords (wordsOfBytes_bytesFrom s s.ctx.pc maxWords)

/-- Words that memory holds from `a` on begin what is read there. -/
theorem codeWords_of_holds {s : State} {ws : List Word} {a : Long} {n : Nat}
    (h : ∀ k w, ws[k]? = some w → s.codeWord (a + BitVec.ofNat 32 (2 * k)) = w) (hn : ws.length ≤ n) :
    ∃ rest, s.codeWords a n = ws ++ rest := by
  induction ws generalizing a n with
  | nil => exact ⟨_, rfl⟩
  | cons w ws ih =>
    obtain ⟨n, rfl⟩ : ∃ m, n = m + 1 := Nat.exists_eq_add_of_le' (Nat.le_trans (Nat.succ_pos _) hn)
    have here : s.codeWord a = w := by simpa using h 0 w rfl
    have later : ∀ k v, ws[k]? = some v → s.codeWord (a + 2#32 + BitVec.ofNat 32 (2 * k)) = v := fun k v hk => by
      rw [BitVec.add_assoc, ← BitVec.ofNat_add, Nat.add_comm]
      exact h (k + 1) v hk
    obtain ⟨rest, hrest⟩ := ih later (Nat.le_of_succ_le_succ hn)
    exact ⟨rest, by rw [State.codeWords, here, hrest, List.cons_append]⟩

/-- Settles O3, by `decodeWords_encode`; an instruction has at most the seven words that are read at the pc, so what is
read there is its encoding with further words behind it. -/
theorem decodeOfEncode : Obligations.DecodeOfEncode := by
  refine ⟨fun i hok => ?_, fun s i hok holds => ?_⟩
  · obtain ⟨w, ws, hws⟩ := List.exists_cons_of_ne_nil (encode_ne_nil i)
    refine ⟨w, ws, hws, fun rest => ?_⟩
    have hdec := decodeWords_encode i hok rest
    rwa [hws, List.cons_append, decodeWords_cons] at hdec
  · obtain ⟨rest, hrest⟩ := codeWords_of_holds holds (length_encode_le i)
    rw [fetchDecode_eq_decodeWords, hrest, decodeWords_encode i hok]

end Machine

/-! ### Words written out -/

/-- Settles O2: the decoder evaluated on each word. -/
theorem wordsDecode : Obligations.WordsDecode := by
  unfold Obligations.WordsDecode
  decide

end Sys2Proof

/-! ## What the decoder answers is well formed (30_encoding.md R130, R150)

An operand is parsed only into terms that an encoding can hold, and `withEa` answers only those of its set; each line's
decoder gives `withEa` the set that `Instr.ok` asks of the instruction it makes. -/

namespace Sys2Proof

/-- A decoded instruction is well formed; a class-U outcome asks nothing. -/
def Decoded.ok : Decoded → Bool
  | .instr i => i.ok
  | _ => true

theorem Decoded.ok_ite {c : Prop} [Decidable c] {a b : Decoded} (ha : a.ok = true) (hb : b.ok = true) :
    (if c then a else b).ok = true := by
  split
  · exact ha
  · exact hb

/-! ### Operands -/

/-- The four kinds of extension word exclude each other, as R123 tests them. -/
theorem parseIdxExt_ok (ws : List Word) : (parseIdxExt ws).1.ok = true := by
  unfold parseIdxExt
  dsimp only
  split
  · rfl
  · next hbrief =>
    have hfull : fullBit (wordAt ws 0) = true := by simpa using hbrief
    split
    · next htraps => simp [IdxExt.ok, hfull, htraps]
    · next htraps =>
      split
      · next hunstated => simp [IdxExt.ok, hfull, htraps, hunstated]
      · next hunstated =>
        split
        · next hsize =>
          have hs : bdSize (wordAt ws 0) = 1#2 := BitVec.eq_of_toNat_eq hsize
          obtain ⟨_, someUsed⟩ := Bool.or_eq_false_iff.1 (Bool.not_eq_true _ ▸ hunstated)
          rw [hs] at someUsed
          exact congrArg (!·) someUsed
        · simp [IdxExt.ok]
        · simp [IdxExt.ok]

theorem parseImm_ok (sz : Size) (ws : List Word) : (parseImm sz ws).1.ok sz = true := by
  cases sz with
  | b =>
    have fits : (((wordAt ws 0).setWidth 8).setWidth 32).toNat < 2 ^ 8 :=
      (BitVec.toNat_setWidth_of_le (by decide)).trans_lt (BitVec.isLt _)
    exact decide_eq_true fits
  | w =>
    have fits : ((wordAt ws 0).setWidth 32).toNat < 2 ^ 16 :=
      (BitVec.toNat_setWidth_of_le (by decide)).trans_lt (BitVec.isLt _)
    exact decide_eq_true fits
  | l => rfl

theorem parseEA_ok {m q : BitVec 3} {sz : Size} {ws rest : List Word} {ea : EA}
    (h : parseEA m q sz ws = some (ea, rest)) : ea.ok sz = true := by
  unfold parseEA at h
  split at h
  any_goals cases h; rfl
  · cases h; exact parseIdxExt_ok ws
  · split at h
    any_goals cases h; rfl
    · cases h; exact parseIdxExt_ok ws
    · have himm := parseImm_ok sz ws
      rwa [Option.some.inj h] at himm
    · cases h

section

variable {m q : BitVec 3} {ws : List Word}

/-- An operand found by `withEa` is in the set and fits the size, which is all `Instr.ok` asks of the instruction. -/
theorem withEa_ok {set : EaSet} {sz : Size} {mk : EA → Instr}
    (h : ∀ ea, (mk ea).ok = (set.admits ea && ea.ok sz)) : (withEa set sz m q ws mk).ok = true := by
  unfold withEa
  split
  · next ea rest hparse =>
    split
    · next hset => exact (h ea).trans (Bool.and_eq_true_iff.2 ⟨hset, parseEA_ok hparse⟩)
    · rfl
  · rfl

/-! ### The shapes of an instruction's decoding -/

theorem boundsInstr_ok {sz : Size} {cmp chk : BitVec 4 → BitVec 11 → EA → Instr}
    (hcmp : ∀ xr rsv ea, (cmp xr rsv ea).ok = (EaSet.ctrl.admits ea && ea.ok sz))
    (hchk : ∀ xr rsv ea, (chk xr rsv ea).ok = (EaSet.ctrl.admits ea && ea.ok sz)) :
    (boundsInstr sz m q ws cmp chk).ok = true := by
  refine withEa_ok fun ea => ?_
  split
  · exact hchk _ _ ea
  · exact hcmp _ _ ea

theorem immEa_ok {ss : BitVec 3} {set : EaSet} {mkB : Byte → EA → Instr} {mkW : Word → EA → Instr}
    {mkL : Long → EA → Instr} (hB : ∀ v ea, (mkB v ea).ok = (set.admits ea && ea.ok .b))
    (hW : ∀ v ea, (mkW v ea).ok = (set.admits ea && ea.ok .w))
    (hL : ∀ v ea, (mkL v ea).ok = (set.admits ea && ea.ok .l)) :
    (immEa ss set m q ws mkB mkW mkL).ok = true := by
  unfold immEa
  split
  · exact withEa_ok (hB _)
  · exact withEa_ok (hW _)
  · exact withEa_ok (hL _)
  · rfl

variable {r o : BitVec 3}

theorem movesInstr_ok {sz : Size} {mk : BitVec 4 → Bool → BitVec 11 → EA → Instr}
    (h : ∀ xr toMem rsv ea, (mk xr toMem rsv ea).ok = (EaSet.malt.admits ea && ea.ok sz)) :
    (movesInstr sz m q ws mk).ok = true := withEa_ok (h _ _ _)

theorem immOrStatus_ok {mkB : Byte → EA → Instr} {mkW : Word → EA → Instr} {mkL : Long → EA → Instr}
    {ccr : Byte → Instr} {sr : Word → Instr}
    (hB : ∀ v ea, (mkB v ea).ok = (EaSet.dalt.admits ea && ea.ok .b))
    (hW : ∀ v ea, (mkW v ea).ok = (EaSet.dalt.admits ea && ea.ok .w))
    (hL : ∀ v ea, (mkL v ea).ok = (EaSet.dalt.admits ea && ea.ok .l))
    (hccr : ∀ v, (ccr v).ok = true) (hsr : ∀ v, (sr v).ok = true) :
    (immOrStatus o m q ws mkB mkW mkL ccr sr).ok = true := by
  unfold immOrStatus
  split
  · split
    · exact hccr _
    · exact hsr _
    · rfl
  · exact immEa_ok hB hW hL

theorem sizedEa_ok {ss : BitVec 3} {setB setWL : EaSet} {mkB mkW mkL : EA → Instr}
    (hB : ∀ ea, (mkB ea).ok = (setB.admits ea && ea.ok .b))
    (hW : ∀ ea, (mkW ea).ok = (setWL.admits ea && ea.ok .w))
    (hL : ∀ ea, (mkL ea).ok = (setWL.admits ea && ea.ok .l)) :
    (sizedEa ss setB setWL m q ws mkB mkW mkL).ok = true := by
  unfold sizedEa
  split
  · exact withEa_ok hB
  · exact withEa_ok hW
  · exact withEa_ok hL
  · rfl

theorem decodeMove_ok {sz : Size} {set : EaSet} {mk : EA → EA → Instr} {mkA : EA → BitVec 3 → Option Instr}
    (h : ∀ src dst, (mk src dst).ok = (set.admits src && src.ok sz && EaSet.dalt.admits dst && dst.ok sz))
    (hA : ∀ src n i, (set.admits src && src.ok sz) = true → mkA src n = some i → i.ok = true) :
    (decodeMove sz set mk mkA r o m q ws).ok = true := by
  unfold decodeMove
  split
  · rfl
  · next src rest hparse =>
    split
    · rfl
    · next hset =>
      have hsrc : (set.admits src && src.ok sz) = true :=
        Bool.and_eq_true_iff.2 ⟨by simpa using hset, parseEA_ok hparse⟩
      split
      · split
        · next i hi => exact hA src r i hsrc hi
        · rfl
      · exact withEa_ok fun dst => by rw [h, hsrc, Bool.true_and]

theorem longArith_ok {mkU mkS : BitVec 1 → BitVec 3 → Bool → BitVec 7 → BitVec 3 → EA → Instr}
    (hU : ∀ a b c d e ea, (mkU a b c d e ea).ok = (EaSet.data.admits ea && ea.ok .l))
    (hS : ∀ a b c d e ea, (mkS a b c d e ea).ok = (EaSet.data.admits ea && ea.ok .l)) :
    (longArith m q ws mkU mkS).ok = true := by
  refine withEa_ok fun ea => ?_
  split
  · exact hS _ _ _ _ _ ea
  · exact hU _ _ _ _ _ ea

theorem movemLoad_ok {sz : Size} {mk : Word → EA → Instr} {refused : BitVec 1 → Instr}
    (h : ∀ v ea, (mk v ea).ok = (EaSet.listLoad.admits ea && ea.ok sz))
    (hrefused : ∀ e, (refused e).ok = true) : (movemLoad sz m q ws mk refused).ok = true :=
  Decoded.ok_ite (hrefused _) (withEa_ok (h _))

theorem chkInstr_ok {sz : Size} {mk : EA → Instr} {refused : Instr}
    (h : ∀ ea, (mk ea).ok = (EaSet.dataNoImm.admits ea && ea.ok sz))
    (hrefused : refused.ok = true) : (chkInstr sz m q ws mk refused).ok = true :=
  Decoded.ok_ite hrefused (withEa_ok h)

/-! ### Line by line (R141 to R147) -/

theorem decodeLine0Low_ok : (decodeLine0Low r o m q ws).ok = true := by
  unfold decodeLine0Low
  split
  case h_1 | h_2 =>
    exact Decoded.ok_ite (boundsInstr_ok (fun _ _ _ => rfl) fun _ _ _ => rfl)
      (immOrStatus_ok (fun _ _ => rfl) (fun _ _ => rfl) (fun _ _ => rfl) (fun _ => rfl) fun _ => rfl)
  case h_3 =>
    exact Decoded.ok_ite (boundsInstr_ok (fun _ _ _ => rfl) fun _ _ _ => rfl)
      (immEa_ok (fun _ _ => rfl) (fun _ _ => rfl) fun _ _ => rfl)
  case h_4 | h_7 => exact immEa_ok (fun _ _ => rfl) (fun _ _ => rfl) fun _ _ => rfl
  case h_5 => split <;> exact withEa_ok fun _ => rfl
  case h_6 => exact immOrStatus_ok (fun _ _ => rfl) (fun _ _ => rfl) (fun _ _ => rfl) (fun _ => rfl) fun _ => rfl
  case h_8 =>
    split
    case h_4 => rfl
    all_goals exact movesInstr_ok fun _ _ _ _ => rfl

theorem decodeLine0High_ok : (decodeLine0High r o m q ws).ok = true := by
  unfold decodeLine0High
  split
  · split <;> rfl
  · split <;> exact withEa_ok fun _ => rfl

theorem decodeLine4Move_ok : (decodeLine4Move o m q ws).ok = true := by
  unfold decodeLine4Move
  split
  case h_2 => exact Decoded.ok_ite rfl (Decoded.ok_ite rfl (withEa_ok fun _ => rfl))
  all_goals exact Decoded.ok_ite rfl (withEa_ok fun _ => rfl)

theorem decodeLine4Control_ok : (decodeLine4Control m q ws).ok = true := by
  unfold decodeLine4Control
  split
  case h_7 | h_8 => split <;> rfl
  all_goals rfl

theorem decodeLine4Low_ok : (decodeLine4Low r o m q ws).ok = true := by
  unfold decodeLine4Low
  split
  case h_1 | h_2 | h_3 =>
    exact Decoded.ok_ite (withEa_ok fun _ => rfl) (sizedEa_ok (fun _ => rfl) (fun _ => rfl) fun _ => rfl)
  case h_4 => exact Decoded.ok_ite rfl (sizedEa_ok (fun _ => rfl) (fun _ => rfl) fun _ => rfl)
  case h_5 => exact decodeLine4Move_ok
  case h_6 =>
    exact Decoded.ok_ite (Decoded.ok_ite rfl (Decoded.ok_ite rfl (withEa_ok fun _ => rfl)))
      (sizedEa_ok (fun _ => rfl) (fun _ => rfl) fun _ => rfl)
  case h_7 =>
    split
    case h_1 | h_2 => exact longArith_ok (fun _ _ _ _ _ _ => rfl) fun _ _ _ _ _ _ => rfl
    all_goals exact movemLoad_ok (fun _ _ => rfl) fun _ => rfl
  case h_8 =>
    split
    case h_1 => exact Decoded.ok_ite rfl (Decoded.ok_ite rfl rfl)
    case h_2 => exact decodeLine4Control_ok
    all_goals exact withEa_ok fun _ => rfl

theorem decodeLine4_ok : (decodeLine4 r o m q ws).ok = true := by
  unfold decodeLine4
  split
  case h_1 | h_3 => exact chkInstr_ok (fun _ => rfl) rfl
  case h_2 => rfl
  case h_4 => exact Decoded.ok_ite (Decoded.ok_ite rfl rfl) (withEa_ok fun _ => rfl)
  case h_5 => exact decodeLine4Low_ok

theorem decodeLine5_ok : (decodeLine5 r o m q ws).ok = true := by
  unfold decodeLine5
  split
  case h_7 =>
    exact Decoded.ok_ite rfl (Decoded.ok_ite rfl (Decoded.ok_ite rfl (Decoded.ok_ite rfl (withEa_ok fun _ => rfl))))
  all_goals exact withEa_ok fun _ => rfl

theorem parseDisp_ok (d8 : Byte) (ws : List Word) : (parseDisp d8 ws).ok = true := by
  unfold parseDisp
  split
  · rfl
  · next h0 =>
    split
    · rfl
    · next hff => simp [Disp.ok, h0, hff]

theorem decodeLine6_ok (cc : BitVec 4) (d8 : Byte) : (decodeLine6 cc d8 ws).ok = true := by
  unfold decodeLine6
  split <;> exact parseDisp_ok d8 ws

theorem decodeLine8_ok : (decodeLine8 r o m q ws).ok = true := by
  unfold decodeLine8
  split
  case h_1 | h_2 | h_3 => exact Decoded.ok_ite rfl (Decoded.ok_ite rfl (withEa_ok fun _ => rfl))
  case h_4 => exact withEa_ok fun _ => rfl
  all_goals exact Decoded.ok_ite rfl (withEa_ok fun _ => rfl)

theorem decodeLine9_ok : (decodeLine9 r o m q ws).ok = true := by
  unfold decodeLine9
  split
  case h_5 | h_6 | h_7 => exact Decoded.ok_ite rfl (withEa_ok fun _ => rfl)
  all_goals exact withEa_ok fun _ => rfl

theorem decodeLineB_ok : (decodeLineB r o m q ws).ok = true := by
  unfold decodeLineB
  split
  case h_5 | h_6 | h_7 => exact Decoded.ok_ite rfl (withEa_ok fun _ => rfl)
  all_goals exact withEa_ok fun _ => rfl

theorem decodeLineC_ok : (decodeLineC r o m q ws).ok = true := by
  unfold decodeLineC
  split
  case h_5 | h_7 => exact Decoded.ok_ite rfl (withEa_ok fun _ => rfl)
  case h_6 => exact Decoded.ok_ite rfl (Decoded.ok_ite rfl (withEa_ok fun _ => rfl))
  all_goals exact withEa_ok fun _ => rfl

theorem decodeLineD_ok : (decodeLineD r o m q ws).ok = true := by
  unfold decodeLineD
  split
  case h_5 | h_6 | h_7 => exact Decoded.ok_ite rfl (withEa_ok fun _ => rfl)
  all_goals exact withEa_ok fun _ => rfl

theorem shiftPick_ok {left : Bool} {tt : BitVec 2} {asr asl lsr lsl roxr roxl ror rol : Instr}
    (hasr : asr.ok = true) (hasl : asl.ok = true) (hlsr : lsr.ok = true) (hlsl : lsl.ok = true)
    (hroxr : roxr.ok = true) (hroxl : roxl.ok = true) (hror : ror.ok = true) (hrol : rol.ok = true) :
    (shiftPick left tt asr asl lsr lsl roxr roxl ror rol).ok = true := by
  unfold shiftPick
  split <;> cases left <;> assumption

theorem decodeLineE_ok : (decodeLineE r o m q ws).ok = true := by
  unfold decodeLineE
  split
  case h_1 | h_2 =>
    split
    case h_5 => rfl
    all_goals exact withEa_ok fun _ => rfl
  all_goals exact shiftPick_ok rfl rfl rfl rfl rfl rfl rfl rfl

end

/-- Whatever the words are, each line's decoder answers a well-formed instruction or class U. -/
theorem decode_ok (w : Word) (ws : List Word) : (decode w ws).ok = true := by
  unfold decode
  split
  case h_1 => exact Decoded.ok_ite decodeLine0High_ok decodeLine0Low_ok
  case h_2 => exact decodeMove_ok (fun _ _ => rfl) fun _ _ _ _ hi => nomatch hi
  case h_3 | h_4 => exact decodeMove_ok (fun _ _ => rfl) fun _ _ _ h hi => by cases hi; exact h
  case h_5 => exact decodeLine4_ok
  case h_6 => exact decodeLine5_ok
  case h_7 => exact decodeLine6_ok _ _
  case h_8 => exact Decoded.ok_ite rfl rfl
  case h_9 => exact decodeLine8_ok
  case h_10 => exact decodeLine9_ok
  case h_11 => rfl
  case h_12 => exact decodeLineB_ok
  case h_13 => exact decodeLineC_ok
  case h_14 => exact decodeLineD_ok
  case h_15 => exact decodeLineE_ok
  case h_16 => exact Decoded.ok_ite rfl rfl

/-- Settles O4, by the decoders of the lines. -/
theorem decodeGivesWellFormed : Obligations.DecodeGivesWellFormed := fun w ws i h => by
  have hok := decode_ok w ws
  rwa [h] at hok

end Sys2Proof

/-! ## Words without an instruction (30_encoding.md R123, R148 to R150) -/

namespace Sys2Proof

/-! ### Full extension words that trap or are refused (R123) -/

theorem fullTraps_iff (x : Word) : fullTraps x = true ↔
    x.extractLsb' 4 2 = 0#2 ∨ (x.getLsbD 6 = true ∧ x.extractLsb' 0 3 ≠ 0#3) := by
  simp only [fullTraps, bdSize, iisField, Bool.or_eq_true, Bool.and_eq_true, beq_iff_eq, bne_iff_ne]

theorem fullUnstated_iff (x : Word) : fullUnstated x = true ↔
    (x.getLsbD 6 = false ∧ x.extractLsb' 0 3 ≠ 0#3) ∨ x.getLsbD 3 = true ∨
      (x.getLsbD 7 = true ∧ x.getLsbD 6 = true ∧ x.extractLsb' 4 2 = 1#2) := by
  simp only [fullUnstated, bdSize, iisField, Bool.or_eq_true, Bool.and_eq_true, Bool.not_eq_true', beq_iff_eq,
    bne_iff_ne, or_assoc, and_assoc]

/-- JMP through an index extension, on An and on the pc. -/
theorem decode_jmp_indexed {x : IdxExt} (h : x.ok = true) (rest : List Word) :
    decode 0x4EF0#16 (x.words ++ rest) = .instr (.jmp (.idx 0#3 x)) ∧
      decode 0x4EFB#16 (x.words ++ rest) = .instr (.jmp (.pcIdx x)) := by
  have onAn : opWord 4#4 7#3 3#3 6#3 0#3 = 0x4EF0#16 := by decide
  have onPc : opWord 4#4 7#3 3#3 7#3 3#3 = 0x4EFB#16 := by decide
  rw [← onAn, ← onPc]
  exact ⟨decodeWords_encode (.jmp (.idx 0#3 x)) h rest, decodeWords_encode (.jmp (.pcIdx x)) h rest⟩

namespace Machine

section

variable {s : State}

/-! ### Class U (R148, R150, R457) -/

theorem fetchDecode_lineA (h : lineOf (s.codeWord s.ctx.pc) = 10#4) : fetchDecode s = .lineA :=
  (fetchDecode_eq_decodeWords s).trans (decode_lineA h _)

theorem fetchDecode_lineF (h : lineOf (s.codeWord s.ctx.pc) = 15#4)
    (hword : s.codeWord s.ctx.pc ≠ 0xF800#16 ∨ s.codeWord (s.ctx.pc + 2#32) ≠ 0x01C0#16) :
    fetchDecode s = .lineF :=
  (fetchDecode_eq_decodeWords s).trans ((decode_lineF h _).trans (if_neg (not_and_or.2 hword)))

theorem raiseLineF_run (h : s.codeWord s.ctx.pc = 0xF800#16 → fetchable s 0 1 = true) :
    raiseLineF s = .error (.exc .lineF) s := by
  unfold raiseLineF
  rw [M_bind_read]
  split
  · next hword =>
    rw [M_bind_ok (touchExt_run (h hword))]
    rfl
  · rfl

/-- An exception that saves the instruction's own address, raised in the state the instruction began in (R451, R457). -/
theorem runInstr_entered {words : Nat} {body : M Flow} {e : Exc} {k : Byte} (hbody : body s = .error (.exc e) s)
    (hexc : raiseExc words s s e = takeEntry (enterException k s.ctx.pc none none) s)
    (hentry : entryReady s k false = true) : runInstr words body s = .next (s.entered k s.ctx.pc none none) :=
  (runInstr_exc hbody).trans (hexc.trans (takeEntry_run hentry))

/-! ### Operands without an address (R123) -/

/-- The computation stops where its operand cannot be located. -/
def StopsWithOperand (src : EA) (s : State) (body : M Flow) : Prop :=
  ∀ e, (∀ sz, locate src sz 0 s = .error e s) → body s = .error e s

/-- Reading an operand and computing its address both begin by locating it. -/
theorem stopsWithOperand_of_locate {α : Type} {src : EA} (sz : Size) (use : Place → M α) (body : α → M Flow) :
    StopsWithOperand src s (locate src sz 0 >>= use >>= body) := fun _ h => M_bind_error (M_bind_error (h sz) _) _

theorem locate_indexed {src : EA} {n : BitVec 3} {x : IdxExt} {e : Stop} (hsrc : src = .idx n x ∨ src = .pcIdx x)
    (hstop : ∀ base, indexedAddr base x 0 s = .error e s) (sz : Size) : locate src sz 0 s = .error e s := by
  rcases hsrc with rfl | rfl
  · exact M_bind_error (hstop _) _
  · exact M_bind_error (hstop _) _

theorem indexedAddr_illegal (hf : fetchable s 0 1 = true) (x : Word) (base : Long) :
    indexedAddr base (.illegal x) 0 s = .error (.exc .illegal) s := M_bind_ok (touchExt_run hf) _

theorem indexedAddr_unstated (hf : fetchable s 0 1 = true) (x : Word) (base : Long) :
    indexedAddr base (.unstated x) 0 s = .error (.refuse .fullExtension) s := M_bind_ok (touchExt_run hf) _

end

/-- Settles O55: the refused words by their arms of `exec`; class U by the decoder and `raiseExc`; the full extension
words by the round trip of JMP, and by `locate`, with which each of the instructions begins. -/
theorem refusedForms : Obligations.RefusedForms := by
  refine ⟨fun s m q r e => ?_, fun s hmark hevents hirqs hrun hfetch => ?_, fun x rest hfull => ?_,
    fun s r n x src dst hf row hrow => ?_⟩
  · simp only [List.forall_mem_cons, List.not_mem_nil, false_implies, implies_true, and_true]
    exact ⟨rfl, rfl, rfl, rfl, rfl, rfl, rfl, rfl, rfl, rfl, rfl, rfl, rfl, rfl⟩
  · have hstep := step_executes hmark hevents hirqs hrun
    rw [executeNext, hfetch] at hstep
    refine ⟨fun hdec hentry => ?_, fun hdec hentry => ?_, fun hdec hwords hentry => ?_, fetchDecode_lineA,
      fetchDecode_lineF⟩
    · rw [hstep, hdec]
      exact runInstr_entered rfl rfl hentry
    · rw [hstep, hdec]
      exact runInstr_entered rfl rfl hentry
    · rw [hstep, hdec]
      exact runInstr_entered (raiseLineF_run hwords) rfl hentry
  · intro traps refuses
    refine ⟨fun htraps => ?_, fun htraps hrefuses => ?_⟩
    · refine decode_jmp_indexed (x := .illegal x) ?_ rest
      simp only [IdxExt.ok, fullBit, hfull, (fullTraps_iff x).2 htraps, Bool.and_self]
    · refine decode_jmp_indexed (x := .unstated x) ?_ rest
      simp only [IdxExt.ok, fullBit, hfull, Bool.eq_false_iff.2 (mt (fullTraps_iff x).1 htraps),
        (fullUnstated_iff x).2 hrefuses, Bool.not_false, Bool.and_self]
  · have begins : ∃ words body, exec row.1 s = runInstr words body s ∧ StopsWithOperand src s body := by
      -- each row's arm of `exec` is a shape that begins by locating its operand
      fin_cases hrow <;> exact ⟨_, _, rfl, stopsWithOperand_of_locate _ _ _⟩
    obtain ⟨words, body, hexec, hstop⟩ := begins
    refine ⟨fun hsrc hentry => ?_, fun hsrc => ?_⟩
    · rw [hexec]
      exact runInstr_entered (hstop _ (locate_indexed hsrc (indexedAddr_illegal hf x))) rfl hentry
    · rw [hexec]
      exact runInstr_refused (hstop _ (locate_indexed hsrc (indexedAddr_unstated hf x)))

end Machine
end Sys2Proof

/-! ## Moves, exchanges, stack frames (40_data_movement.md R162 to R164, R171 to R176, 41_integer_arithmetic.md R203,
R208, R215, 44_shift_rotate.md R304) -/

namespace Sys2Proof.Machine

section

variable {s : State} {sz : Size}

/-! ### MOVE (R162) -/

/-- A draw changes neither where an operand is nor whether it can be written. -/
theorem placeOf_drew (u : State) (ea : EA) (k n : Nat) : placeOf (u.drew n) ea sz k = placeOf u ea sz k := by
  cases ea <;> rfl

theorem targetReady_drew (u : State) (ea : EA) (k n : Nat) :
    targetReady (u.drew n) ea sz k = targetReady u ea sz k := by
  unfold targetReady
  rw [placeOf_drew, writableAt_congr (s := u) rfl]
  rfl

/-- The part of MOVE after its value is known: the store, then the flags from that value. -/
theorem storeThenFlags_run {u : State} {dst : EA} {k : Nat} (ht : targetReady u dst sz k = true) (v : Long) :
    (do writeEA dst sz k v; setLogicFlags sz v; return .next : M Flow) u =
      .ok .next (((u.storeAt sz v (placeOf u dst sz k).loc).bump (placeOf u dst sz k)).withCcr
        (logicFlags sz v u.ctx.ccr)) := by
  rw [M_bind_ok (writeEA_run ht v), M_bind_ok (setLogicFlags_run _ _ _)]
  simp [Ctx.ccr]

section

variable {src dst : EA} (hu : untraced s = true) (hs : sourceReady s src sz 0 = true)
  (ht : targetReady (s.bump (placeOf s src sz 0)) dst sz (src.extWords sz) = true)
include hs

theorem opMove_storesItself_refused (hself : storesItself src dst = true) (hp : s.params.undefined = .refuse) :
    opMove sz src dst s = .refused .storesItself := by
  refine runInstr_refused (t := s.bump (placeOf s src sz 0)) ?_
  rw [M_bind_ok (readEA_run hs), if_pos hself]
  refine M_bind_error ?_ _
  rw [refuseUndefined_run, State.bump_params, if_pos hp]

include hu ht

theorem opMove_run (hself : storesItself src dst = false) :
    opMove sz src dst s =
      let p := placeOf s src sz 0
      let t := s.bump p
      let q := placeOf t dst sz (src.extWords sz)
      let v := valueAt s sz p.loc
      .next (s.finished (1 + src.extWords sz + dst.extWords sz)
        (((t.storeAt sz v q.loc).bump q).withCcr (logicFlags sz v s.ctx.ccr))) := by
  refine runInstr_next hu ?_
  rw [M_bind_ok (readEA_run hs), hself]
  refine (storeThenFlags_run ht _).trans ?_
  rw [State.bump_ccr]

theorem opMove_storesItself_free (hself : storesItself src dst = true) (hp : s.params.undefined = .free) :
    opMove sz src dst s =
      let p := placeOf s src sz 0
      let t := s.bump p
      let q := placeOf t dst sz (src.extWords sz)
      let v := trunc sz (s.free 0)
      .next (s.finished (1 + src.extWords sz + dst.extWords sz)
        ((((t.drew 1).storeAt sz v q.loc).bump q).withCcr (logicFlags sz v s.ctx.ccr))) := by
  refine runInstr_next hu ?_
  rw [M_bind_ok (readEA_run hs), if_pos hself]
  have free : refuseUndefined .storesItself (s.bump (placeOf s src sz 0)) = .ok () (s.bump (placeOf s src sz 0)) := by
    rw [refuseUndefined_run, State.bump_params, if_neg (by rw [hp]; decide)]
  refine (M_bind_ok free _).trans ((M_bind_ok (drawSized_run _ _) _).trans ?_)
  refine (storeThenFlags_run ((targetReady_drew _ _ _ _).trans ht) _).trans ?_
  simp [placeOf_drew, State.free]

end

/-- Settles O29: MOVE of each size by the equations of `opMove`. -/
theorem moveForms : Obligations.MoveForms := by
  intro s src dst hu
  simp only [List.forall_mem_cons, List.not_mem_nil, false_implies, implies_true, and_true]
  refine ⟨?_, ?_, ?_⟩ <;>
    exact fun hs ht => ⟨opMove_run hu hs ht, opMove_storesItself_refused hs, opMove_storesItself_free hu hs ht⟩

/-! ### Address arithmetic, MOVEQ, EXG, LEA, EXT, SWAP -/

theorem opMovea_run {src : EA} (hu : untraced s = true) (hs : sourceReady s src sz 0 = true) (r : BitVec 3) :
    opMovea sz src r s =
      let p := placeOf s src sz 0
      .next (s.finished (1 + src.extWords sz) ((s.bump p).withA r (sext sz (valueAt s sz p.loc)))) := by
  refine runInstr_next hu ?_
  rw [M_bind_ok (readEA_run hs)]
  rfl

theorem opAddressArith_run (g : Long → Long → Long) {src : EA} (hu : untraced s = true)
    (hs : sourceReady s src sz 0 = true) (r : BitVec 3) :
    opAddressArith g sz r src s =
      let p := placeOf s src sz 0
      let t := s.bump p
      .next (s.finished (1 + src.extWords sz) (t.withA r (g (t.ctx.getA r) (sext sz (valueAt s sz p.loc))))) := by
  refine runInstr_next hu ?_
  rw [M_bind_ok (readEA_run hs)]
  rfl

theorem opMoveq_run (hu : untraced s = true) (r : BitVec 3) (d : Byte) :
    opMoveq r d s = .next (s.finished 1
      ((s.withD r .l (d.signExtend 32)).withCcr (logicFlags .l (d.signExtend 32) s.ctx.ccr))) := by
  refine runInstr_next hu ?_
  rw [M_bind_ok (setD_run _ _ _ _), M_bind_ok (setLogicFlags_run _ _ _)]
  simp [Ctx.ccr]

theorem opExg_run (hu : untraced s = true) (k1 k2 : BitVec 4) :
    opExg k1 k2 s = .next (s.finished 1 ((s.withR k1 (s.ctx.getR k2)).withR k2 (s.ctx.getR k1))) :=
  runInstr_next (body := do
    let v1 ← getR k1
    let v2 ← getR k2
    setR k1 v2
    setR k2 v1
    return .next) hu rfl

theorem opLea_run {ea : EA} (hu : untraced s = true) (ha : addressReady s ea 0 = true) (r : BitVec 3) :
    opLea r ea s = .next (s.finished (1 + ea.extWords .l) (s.withA r (addrOf s ea 0))) := by
  refine runInstr_next hu ?_
  rw [M_bind_ok (addrEA_run ha)]
  rfl

theorem opExt_run (hu : untraced s = true) (src dst : Size) (r : BitVec 3) :
    opExt src dst r s =
      let v := sext src (s.ctx.getD r)
      .next (s.finished 1 ((s.withD r dst v).withCcr (logicFlags dst v s.ctx.ccr))) := by
  refine runInstr_next hu ?_
  rw [M_bind_ok (getD_run _ _), M_bind_ok (setD_run _ _ _ _), M_bind_ok (setLogicFlags_run _ _ _)]
  simp [Ctx.ccr]

theorem opSwap_run (hu : untraced s = true) (r : BitVec 3) :
    opSwap r s =
      let v : Long := (s.ctx.getD r).extractLsb' 0 16 ++ (s.ctx.getD r).extractLsb' 16 16
      .next (s.finished 1 ((s.withD r .l v).withCcr (logicFlags .l v s.ctx.ccr))) := by
  refine runInstr_next hu ?_
  rw [M_bind_ok (getD_run _ _), M_bind_ok (setD_run _ _ _ _), M_bind_ok (setLogicFlags_run _ _ _)]
  simp [Ctx.ccr]

/-- `R[k]` replaced, of a data register number and of an address register number. -/
theorem State.withR_data (s : State) (r : BitVec 3) (v : Long) : s.withR (0#1 ++ r) v = s.withD r .l v := by
  rw [State.withR, Ctx.withR_data]
  rfl

theorem State.withR_address (s : State) (r : BitVec 3) (v : Long) : s.withR (1#1 ++ r) v = s.withA r v := by
  rw [State.withR, Ctx.withR_address]
  rfl

/-- Settles O30: each form by the equation of its shape above. -/
theorem registerForms : Obligations.RegisterForms := by
  refine ⟨fun s r src hu => ?_, fun s r x y d ea hu => ?_⟩
  · simp only [List.forall_mem_cons, List.not_mem_nil, false_implies, implies_true, and_true]
    exact ⟨fun hs => opMovea_run hu hs r, fun hs => opAddressArith_run (· + ·) hu hs r,
      fun hs => opAddressArith_run (· - ·) hu hs r, fun hs => opMovea_run hu hs r,
      fun hs => opAddressArith_run (· + ·) hu hs r, fun hs => opAddressArith_run (· - ·) hu hs r⟩
  · have exg := fun k1 k2 => opExg_run hu k1 k2
    refine ⟨opMoveq_run hu r d, ?_, ?_, ?_, fun ha => opLea_run hu ha r, ?_, opSwap_run hu r⟩
    · refine (exg (0#1 ++ x) (0#1 ++ y)).trans ?_
      simp only [Ctx.getR_data, State.withR_data]
    · refine (exg (1#1 ++ x) (1#1 ++ y)).trans ?_
      simp only [Ctx.getR_address, State.withR_address]
    · refine (exg (0#1 ++ x) (1#1 ++ y)).trans ?_
      simp only [Ctx.getR_data, Ctx.getR_address, State.withR_data, State.withR_address]
    · simp only [List.forall_mem_cons, List.not_mem_nil, false_implies, implies_true, and_true]
      exact ⟨opExt_run hu .b .w r, opExt_run hu .w .l r, opExt_run hu .b .l r⟩

/-! ### PEA, LINK, UNLK (R174 to R176) -/

theorem opPea_run {ea : EA} (hu : untraced s = true) (ha : addressReady s ea 0 = true) (hp : pushable s .l = true) :
    opPea ea s = .next (s.finished (1 + ea.extWords .l) (s.pushed .l (addrOf s ea 0))) := by
  refine runInstr_next hu ?_
  rw [M_bind_ok (addrEA_run ha), M_bind_ok (push_run hp _)]
  rfl

section

variable {r : BitVec 3}

theorem opLink_run (hu : untraced s = true) {n : Nat} (d : Long) (hr : r ≠ 7#3) (hf : fetchable s 0 n = true)
    (hp : pushable s .l = true) :
    opLink n r d s = .next (s.finished (1 + n)
      (((s.pushed .l (s.ctx.getA r)).withA r (s.ctx.sp - 4#32)).withSp (s.ctx.sp - 4#32 + d))) := by
  refine runInstr_next hu ?_
  rw [if_neg hr]
  refine (M_bind_ok (touchExt_run hf) _).trans ?_
  rw [M_bind_ok (getA_run _ _), M_bind_ok (push_run hp _), M_bind_ok (getSp_run _),
    State.pushed_ctx, Ctx.sp_withSp]
  rfl

theorem opLink_a7 (n : Nat) (d : Long) (hr : r = 7#3) : opLink n r d s = .refused .linkA7 := by
  refine runInstr_refused (t := s) ?_
  rw [if_pos hr]
  rfl

theorem opUnlk_run (hu : untraced s = true) (hr : r ≠ 7#3) (hread : readable s (s.ctx.getA r) .l = true) :
    opUnlk r s = .next (s.finished 1
      ((s.withA r (s.readAt (s.ctx.getA r).toNat .l)).withSp (s.ctx.getA r + 4#32))) := by
  refine runInstr_next hu ?_
  rw [if_neg hr]
  refine (M_bind_ok (getA_run _ _) _).trans ?_
  rw [M_bind_ok (memRead_run hread)]
  rfl

theorem opUnlk_a7 (hr : r = 7#3) : opUnlk r s = .refused .unlkA7 := by
  refine runInstr_refused (t := s) ?_
  rw [if_pos hr]
  rfl

end

/-- Settles O38: each form by its equation above. -/
theorem stackForms : Obligations.StackForms := by
  intro s ea r w l hu
  simp only [List.forall_mem_cons, List.not_mem_nil, false_implies, implies_true, and_true]
  exact ⟨opPea_run hu, ⟨⟨opLink_run hu _, opLink_a7 _ _⟩, ⟨opLink_run hu _, opLink_a7 _ _⟩⟩, opUnlk_run hu, opUnlk_a7⟩

end

end Sys2Proof.Machine

/-! ## Lists of registers and bytes in memory (40_data_movement.md R165 to R169, R171) -/

namespace Sys2Proof.Machine

section

variable {s t : State} {sz : Size} {a d : Long} {n : Nat}

/-! ### Slots -/

theorem slotsWritable_iff :
    slotsWritable s sz a d n = true ↔ ∀ j < n, writable s (a + BitVec.ofNat 32 j * d) sz = true := by
  simp only [slotsWritable, List.all_eq_true, List.mem_range]

theorem slotsReadable_iff :
    slotsReadable s sz a d n = true ↔ ∀ j < n, readable s (a + BitVec.ofNat 32 j * d) sz = true := by
  simp only [slotsReadable, List.all_eq_true, List.mem_range]

theorem slot_zero (a d : Long) : a + BitVec.ofNat 32 0 * d = a := by simp

/-- The slots after the first begin one step further on. -/
theorem slot_succ (a d : Long) (j : Nat) : a + BitVec.ofNat 32 (j + 1) * d = a + d + BitVec.ofNat 32 j * d := by
  rw [BitVec.ofNat_add, show BitVec.ofNat 32 1 = (1 : Long) from rfl]
  ring

theorem slotsWritable_succ (h : slotsWritable s sz a d (n + 1) = true) :
    writable s a sz = true ∧ slotsWritable s sz (a + d) d n = true := by
  rw [slotsWritable_iff] at h ⊢
  refine ⟨slot_zero a d ▸ h 0 n.succ_pos, fun j hj => ?_⟩
  rw [← slot_succ]
  exact h (j + 1) (Nat.succ_lt_succ hj)

theorem slotsReadable_succ (h : slotsReadable s sz a d (n + 1) = true) :
    readable s a sz = true ∧ slotsReadable s sz (a + d) d n = true := by
  rw [slotsReadable_iff] at h ⊢
  refine ⟨slot_zero a d ▸ h 0 n.succ_pos, fun j hj => ?_⟩
  rw [← slot_succ]
  exact h (j + 1) (Nat.succ_lt_succ hj)

/-- Whether slots can be accessed is a matter of the parameters. -/
theorem slotsWritable_congr (h : t.params = s.params) : slotsWritable t sz a d n = slotsWritable s sz a d n := by
  simp only [slotsWritable, writable_congr h]

theorem slotsReadable_congr (h : t.params = s.params) : slotsReadable t sz a d n = slotsReadable s sz a d n := by
  simp only [slotsReadable, readable_congr h]

/-! ### MOVEP (R171) -/

theorem storeAlternate_run {bs : List Byte} (h : slotsWritable s .b a 2#32 bs.length = true) :
    storeAlternate bs a s = .ok () (s.storedAlternate bs a) := by
  induction bs generalizing s a with
  | nil => rfl
  | cons b bs ih =>
    obtain ⟨first, rest⟩ := slotsWritable_succ h
    rw [storeAlternate, M_bind_ok (memWrite_run first _)]
    exact ih (by rwa [slotsWritable_congr (State.wrote_params s _ _ _)])

/-- One byte of a load is put below the bytes loaded before it. -/
theorem loadAlternate_succ_run (h : readable s a .b = true) (acc : Long) :
    loadAlternate (n + 1) a acc s =
      loadAlternate n (a + 2#32) ((acc <<< 8) ||| (s.byteAt a.toNat).setWidth 32) s := by
  rw [loadAlternate, M_bind_ok (memRead_run h)]
  rfl

/-- Putting a byte below a value is concatenation. -/
theorem shiftLeft_or_byte {w : Nat} (v : BitVec w) (b : Byte) :
    (v.setWidth 32 <<< 8) ||| b.setWidth 32 = ((v ++ b).setWidth 32 : Long) := by
  refine BitVec.eq_of_getLsbD_eq fun i hi => ?_
  by_cases low : i < 8
  · simp [BitVec.getLsbD_append, low, hi]
  · simp [BitVec.getLsbD_append, low, hi, BitVec.getLsbD_of_ge b i (by omega)]

theorem loadAlternate_word_run (h : slotsReadable s .b a 2#32 2 = true) :
    loadAlternate 2 a 0#32 s =
      .ok ((s.byteAt a.toNat ++ s.byteAt (a + 2#32).toNat).setWidth 32) s := by
  obtain ⟨r0, h⟩ := slotsReadable_succ h
  obtain ⟨r1, -⟩ := slotsReadable_succ h
  rw [loadAlternate_succ_run r0, loadAlternate_succ_run r1, BitVec.zero_shiftLeft, BitVec.zero_or, shiftLeft_or_byte]
  rfl

theorem loadAlternate_long_run (h : slotsReadable s .b a 2#32 4 = true) :
    loadAlternate 4 a 0#32 s =
      .ok (s.byteAt a.toNat ++ s.byteAt (a + 2#32).toNat ++ s.byteAt (a + 4#32).toNat ++
        s.byteAt (a + 6#32).toNat) s := by
  obtain ⟨r0, h⟩ := slotsReadable_succ h
  obtain ⟨r1, h⟩ := slotsReadable_succ h
  obtain ⟨r2, h⟩ := slotsReadable_succ h
  obtain ⟨r3, -⟩ := slotsReadable_succ h
  rw [loadAlternate_succ_run r0, loadAlternate_succ_run r1, loadAlternate_succ_run r2, loadAlternate_succ_run r3,
    BitVec.zero_shiftLeft, BitVec.zero_or, shiftLeft_or_byte, shiftLeft_or_byte, shiftLeft_or_byte]
  simp only [BitVec.add_assoc, BitVec.reduceAdd, BitVec.setWidth_eq]
  rfl

section

variable {y : BitVec 3} {w : Word} (hf : fetchable s 0 1 = true)
include hf

theorem movepAddr_run : movepAddr y w s = .ok (s.ctx.getA y + w.signExtend 32) s := by
  rw [movepAddr, M_bind_ok (touchExt_run hf)]
  rfl

variable (hu : untraced s = true) (x : BitVec 3)
include hu

/-- MOVEP to memory, of the bytes of a register that `bytes` picks. -/
theorem movepStore_run (bytes : Long → List Byte)
    (hw : slotsWritable s .b (s.ctx.getA y + w.signExtend 32) 2#32 (bytes (s.ctx.getD x)).length = true) :
    runInstr 2 (do
      let a ← movepAddr y w
      storeAlternate (bytes (← getD x)) a
      return .next) s =
      .next (s.finished 2 (s.storedAlternate (bytes (s.ctx.getD x)) (s.ctx.getA y + w.signExtend 32))) := by
  refine runInstr_next hu ?_
  rw [M_bind_ok (movepAddr_run hf), M_bind_ok (getD_run _ _), M_bind_ok (storeAlternate_run hw)]
  rfl

/-- MOVEP to a register, of `n` bytes that make the value `v`. -/
theorem movepLoad_run {v : Long} (hr : loadAlternate n (s.ctx.getA y + w.signExtend 32) 0#32 s = .ok v s) :
    runInstr 2 (do
      let a ← movepAddr y w
      setD x sz (← loadAlternate n a 0#32)
      return .next) s = .next (s.finished 2 (s.withD x sz v)) := by
  refine runInstr_next hu ?_
  rw [M_bind_ok (movepAddr_run hf), M_bind_ok hr]
  rfl

end

/-- Settles O37: the bytes stored are those of the operand, the bytes loaded make the value by the two rules above. -/
theorem movepForms : Obligations.MovepForms := by
  intro s x y d hu hf
  have low : ∀ v : Long, v.setWidth 8 = v.extractLsb' 0 8 := fun v => BitVec.setWidth_eq_extractLsb' (by decide)
  refine ⟨fun hw => ?_, fun hw => ?_, fun hr => ?_, fun hr => ?_⟩
  · rw [← low]
    exact movepStore_run hf hu x (operandBytes .w) hw
  · rw [← low]
    exact movepStore_run hf hu x (operandBytes .l) hw
  · refine (movepLoad_run hf hu x (loadAlternate_word_run hr)).trans ?_
    simp
  · refine (movepLoad_run hf hu x (loadAlternate_long_run hr)).trans ?_
    simp

/-! ### MOVEM: the lists (R166 to R169) -/

theorem storeUp_run {ks : List (BitVec 4)} (h : slotsWritable s sz a (stepOf sz) ks.length = true) :
    storeUp sz ks a s = .ok () (s.storedUp sz ks a) := by
  induction ks generalizing s a with
  | nil => rfl
  | cons k ks ih =>
    obtain ⟨first, rest⟩ := slotsWritable_succ h
    rw [storeUp, M_bind_ok (getR_run _ _), M_bind_ok (memWrite_run first _)]
    exact ih (by rwa [slotsWritable_congr (State.wrote_params s _ _ _)])

/-- The address below `n` slots. -/
theorem sub_slots_succ (a d : Long) (j : Nat) :
    a - d - BitVec.ofNat 32 j * d = a - BitVec.ofNat 32 (j + 1) * d := by
  rw [BitVec.ofNat_add, show BitVec.ofNat 32 1 = (1 : Long) from rfl]
  ring

theorem storeDown_run {r : BitVec 3} (init : Long) {ks : List (BitVec 4)}
    (h : slotsWritable s sz (a - stepOf sz) (-stepOf sz) ks.length = true) :
    storeDown sz r init ks a s =
      .ok (a - BitVec.ofNat 32 ks.length * stepOf sz) (s.storedDown sz r (init - stepOf sz) ks a) := by
  induction ks generalizing s a with
  | nil => simp [storeDown, State.storedDown]
  | cons k ks ih =>
    obtain ⟨first, rest⟩ := slotsWritable_succ h
    rw [storeDown, M_bind_ok (getR_run _ _), M_bind_ok (memWrite_run first _), List.length_cons, ← sub_slots_succ]
    exact ih (by rwa [slotsWritable_congr (State.wrote_params s _ _ _), BitVec.sub_eq_add_neg (a - stepOf sz)])

theorem loadUp_run {ks : List (BitVec 4)} (h : slotsReadable s sz a (stepOf sz) ks.length = true) :
    loadUp sz ks a s = .ok (a + BitVec.ofNat 32 ks.length * stepOf sz) (s.loadedUp sz none ks a) := by
  induction ks generalizing s a with
  | nil => simp [loadUp, State.loadedUp]
  | cons k ks ih =>
    obtain ⟨first, rest⟩ := slotsReadable_succ h
    rw [loadUp, M_bind_ok (memRead_run first), M_bind_ok (setR_run _ _ _), List.length_cons, slot_succ]
    exact ih (by rwa [slotsReadable_congr (State.withR_params s _ _)])

/-- Loads through `(An)+` leave `A[n]` alone and keep apart the value fetched for it (R168 b). -/
theorem loadPostinc_run {r : BitVec 3} {ks : List (BitVec 4)} (h : slotsReadable s sz a (stepOf sz) ks.length = true)
    (own : Option Long) : ∃ v,
      loadPostinc sz r ks a own s =
        .ok (a + BitVec.ofNat 32 ks.length * stepOf sz, v) (s.loadedUp sz (some (1#1 ++ r)) ks a) ∧
      (1#1 ++ r ∉ ks → v = own) ∧
      (ks.Nodup → ∀ j, ks[j]? = some (1#1 ++ r) →
        v = some (sext sz (s.readAt (a + BitVec.ofNat 32 j * stepOf sz).toNat sz))) := by
  induction ks generalizing s a own with
  | nil => exact ⟨own, by simp [loadPostinc, State.loadedUp], fun _ => rfl, fun _ j hj => by simp at hj⟩
  | cons k ks ih =>
    obtain ⟨first, rest⟩ := slotsReadable_succ h
    rw [loadPostinc, M_bind_ok (memRead_run first), List.length_cons, State.loadedUp]
    simp only [slot_succ]
    by_cases hk : k = 1#1 ++ r
    · subst hk
      obtain ⟨v, hrun, hout, hin⟩ := ih rest (some (sext sz (s.readAt a.toNat sz)))
      refine ⟨v, ?_, fun hn => absurd List.mem_cons_self hn, fun hnd j hj => ?_⟩
      · simpa using hrun
      · obtain ⟨hmem, hnd⟩ := List.nodup_cons.1 hnd
        cases j with
        | zero => rw [hout hmem, slot_zero]
        | succ j => exact absurd (List.mem_of_getElem? (l := ks) hj) hmem
    · have rest' : slotsReadable (s.withR k (sext sz (s.readAt a.toNat sz))) sz (a + stepOf sz) (stepOf sz)
          ks.length = true := by rwa [slotsReadable_congr (State.withR_params s _ _)]
      obtain ⟨v, hrun, hout, hin⟩ := ih rest' own
      refine ⟨v, ?_, fun hn => hout fun hm => hn (List.mem_cons_of_mem _ hm), fun hnd j hj => ?_⟩
      · rw [if_neg hk, if_neg (fun e => hk (Option.some.inj e).symm)]
        exact hrun
      · cases j with
        | zero => exact absurd (Option.some.inj hj) hk
        | succ j => rw [hin (List.nodup_cons.1 hnd).2 j hj, slot_succ]; rfl

@[simp] theorem State.loadedUp_params (s : State) (z : Size) (skip : Option (BitVec 4)) (ks : List (BitVec 4))
    (b : Long) : (s.loadedUp z skip ks b).params = s.params := by
  induction ks generalizing s b with
  | nil => rfl
  | cons k ks ih =>
    rw [State.loadedUp, ih]
    split <;> rfl

/-! ### MOVEM: the instructions -/

/-- What MOVEM through `(An)+` leaves in `A[n]`, of the value fetched for it, if it is in the list, and the address
after the last operand (R168 b). -/
def selfLoaded (policy : MovemSelfLoad) (own : Option Long) (last step : Long) : Long :=
  match policy, own with
  | .fetchedPlusSize, some v => v + step
  | _, _ => last

theorem selfLoaded_finalAddress (own : Option Long) (last step : Long) :
    selfLoaded .finalAddress own last step = last := rfl

theorem selfLoaded_none (policy : MovemSelfLoad) (last step : Long) : selfLoaded policy none last step = last := by
  cases policy <;> rfl

variable {mask : Word} {ea : EA} {r : BitVec 3}

theorem maskRegs_nodup (mask : Word) : (maskRegs mask).Nodup := by
  refine (List.nodup_range.filter _).map_on fun i hi j hj e => ?_
  have hi := List.mem_range.1 (List.mem_filter.1 hi).1
  have hj := List.mem_range.1 (List.mem_filter.1 hj).1
  have e := congrArg BitVec.toNat e
  rwa [BitVec.toNat_ofNat, BitVec.toNat_ofNat, Nat.mod_eq_of_lt hi, Nat.mod_eq_of_lt hj] at e

section

variable (hu : untraced s = true) (hf : fetchable s 0 1 = true)
include hu hf

theorem opMovemStore_control_run (hea : ∀ m, ea ≠ .predec m) (ha : addressReady s ea 1 = true)
    (hw : slotsWritable s sz (addrOf s ea 1) (stepOf sz) (maskRegs mask).length = true) :
    opMovemStore sz mask ea s =
      .next (s.finished (2 + ea.extWords sz) (s.storedUp sz (maskRegs mask) (addrOf s ea 1))) := by
  have control : opMovemStore sz mask ea s = runInstr (2 + ea.extWords sz) (do
      touchExt 0 1
      let a ← addrEA ea 1
      storeUp sz (maskRegs mask) a
      return .next) s := by
    cases ea with
    | predec m => exact absurd rfl (hea m)
    | _ => rfl
  rw [control]
  refine runInstr_next hu ?_
  rw [M_bind_ok (touchExt_run hf), M_bind_ok (addrEA_run ha), M_bind_ok (storeUp_run hw)]
  rfl

theorem opMovemStore_predec_run
    (hw : slotsWritable s sz (s.ctx.getA r - stepOf sz) (-stepOf sz) (maskRegsDown mask).length = true) :
    opMovemStore sz mask (.predec r) s =
      let a := s.ctx.getA r
      .next (s.finished 2 ((s.storedDown sz r (a - stepOf sz) (maskRegsDown mask) a).withA r
        (a - BitVec.ofNat 32 (maskRegsDown mask).length * stepOf sz))) := by
  refine runInstr_next hu ?_
  exact (M_bind_ok (touchExt_run hf) _).trans ((M_bind_ok (getA_run _ _) _).trans (M_bind_ok (storeDown_run _ hw) _))

theorem opMovemLoad_control_run (hea : ∀ m, ea ≠ .postinc m) (ha : addressReady s ea 1 = true)
    (hr : slotsReadable s sz (addrOf s ea 1) (stepOf sz) (maskRegs mask).length = true) :
    opMovemLoad sz mask ea s =
      .next (s.finished (2 + ea.extWords sz) (s.loadedUp sz none (maskRegs mask) (addrOf s ea 1))) := by
  have control : opMovemLoad sz mask ea s = runInstr (2 + ea.extWords sz) (do
      touchExt 0 1
      let a ← addrEA ea 1
      let _ ← loadUp sz (maskRegs mask) a
      return .next) s := by
    cases ea with
    | postinc m => exact absurd rfl (hea m)
    | _ => rfl
  rw [control]
  refine runInstr_next hu ?_
  rw [M_bind_ok (touchExt_run hf), M_bind_ok (addrEA_run ha), M_bind_ok (loadUp_run hr)]
  rfl

variable (hr : slotsReadable s sz (s.ctx.getA r) (stepOf sz) (maskRegs mask).length = true)
include hr

theorem opMovemLoad_postinc_run : ∃ own,
    opMovemLoad sz mask (.postinc r) s =
      .next (s.finished 2 ((s.loadedUp sz (some (1#1 ++ r)) (maskRegs mask) (s.ctx.getA r)).withA r
        (selfLoaded s.params.movemSelfLoad own (s.ctx.getA r + BitVec.ofNat 32 (maskRegs mask).length * stepOf sz)
          (stepOf sz)))) ∧
    (1#1 ++ r ∉ maskRegs mask → own = none) ∧
    (∀ j, (maskRegs mask)[j]? = some (1#1 ++ r) →
      own = some (sext sz (s.readAt (s.ctx.getA r + BitVec.ofNat 32 j * stepOf sz).toNat sz))) := by
  obtain ⟨own, hrun, hout, hin⟩ := loadPostinc_run hr none
  refine ⟨own, runInstr_next hu ?_, hout, hin (maskRegs_nodup mask)⟩
  refine (M_bind_ok (touchExt_run hf) _).trans ((M_bind_ok (getA_run _ _) _).trans ((M_bind_ok hrun _).trans ?_))
  refine (M_bind_read _ _ _).trans ?_
  rw [State.loadedUp_params]
  cases own <;> cases s.params.movemSelfLoad <;> rfl

theorem opMovemLoad_postinc_last (hself : s.params.movemSelfLoad = .finalAddress ∨ 1#1 ++ r ∉ maskRegs mask) :
    opMovemLoad sz mask (.postinc r) s =
      .next (s.finished 2 ((s.loadedUp sz (some (1#1 ++ r)) (maskRegs mask) (s.ctx.getA r)).withA r
        (s.ctx.getA r + BitVec.ofNat 32 (maskRegs mask).length * stepOf sz))) := by
  obtain ⟨own, hrun, hout, -⟩ := opMovemLoad_postinc_run hu hf hr
  rw [hrun]
  rcases hself with final | outside
  · rw [final, selfLoaded_finalAddress]
  · rw [hout outside, selfLoaded_none]

theorem opMovemLoad_postinc_fetched {j : Nat} (hj : (maskRegs mask)[j]? = some (1#1 ++ r))
    (hself : s.params.movemSelfLoad = .fetchedPlusSize) :
    opMovemLoad sz mask (.postinc r) s =
      .next (s.finished 2 ((s.loadedUp sz (some (1#1 ++ r)) (maskRegs mask) (s.ctx.getA r)).withA r
        (sext sz (s.readAt (s.ctx.getA r + BitVec.ofNat 32 j * stepOf sz).toNat sz) + stepOf sz))) := by
  obtain ⟨own, hrun, -, hin⟩ := opMovemLoad_postinc_run hu hf hr
  rw [hrun, hself, hin j hj]
  rfl

end

/-- Settles O35: each direction and mode by its equation above, with the list of `maskRegs`. -/
theorem movemForms : Obligations.MovemForms := by
  refine ⟨fun s mask n ea hu hf => ?_, fun s mask n ea hu hf => ?_⟩
  · have down : (maskRegsDown mask).length = (maskRegs mask).length := List.length_map _
    simp only [List.forall_mem_cons, List.not_mem_nil, false_implies, implies_true, and_true]
    refine ⟨⟨opMovemStore_control_run hu hf, fun hw => ?_⟩, ⟨opMovemStore_control_run hu hf, fun hw => ?_⟩⟩ <;>
    · refine (opMovemStore_predec_run (mask := mask) hu hf (by rw [down]; exact hw)).trans ?_
      rw [down]
      rfl
  · simp only [List.forall_mem_cons, List.not_mem_nil, false_implies, implies_true, and_true]
    refine ⟨?_, ?_⟩ <;>
      exact ⟨opMovemLoad_control_run hu hf, fun hr => ⟨opMovemLoad_postinc_last hu hf hr,
        fun _ => opMovemLoad_postinc_fetched hu hf hr⟩⟩

end

end Sys2Proof.Machine

/-! ## MOVEM there and back (40_data_movement.md R165, R167, R169) -/

namespace Sys2Proof.Machine

/-! ### Registers put back -/

theorem Ctx.withD_self (c : Ctx) (r : BitVec 3) : c.withD r (c.getD r) = c := by
  simp [Ctx.withD, Ctx.getD, regIdx, Vector.get_eq_getElem]

theorem Ctx.withSp_self (c : Ctx) : c.withSp c.sp = c := by
  unfold Ctx.withSp Ctx.sp
  split <;> rfl

theorem Ctx.withA_self (c : Ctx) (r : BitVec 3) : c.withA r (c.getA r) = c := by
  unfold Ctx.withA Ctx.getA
  split
  · simp
  · exact c.withSp_self

theorem Ctx.withR_self (c : Ctx) (k : BitVec 4) : c.withR k (c.getR k) = c := by
  unfold Ctx.withR Ctx.getR
  split
  · exact c.withA_self _
  · exact c.withD_self _

theorem Ctx.withA_withA (c : Ctx) (r : BitVec 3) (v w : Long) : (c.withA r v).withA r w = c.withA r w := by
  unfold Ctx.withA
  split <;> simp

/-- The pc and an address register may be replaced in either order. -/
theorem Ctx.withA_withPc (c : Ctx) (r : BitVec 3) (v p : Long) :
    Ctx.withA { c with pc := p } r v = { c.withA r v with pc := p } := by
  unfold Ctx.withA Ctx.withSp
  split
  · rfl
  · split <;> rfl

/-- Loading every register of a list with what it holds changes nothing. -/
theorem State.loadedUp_same {t : State} {skip : Option (BitVec 4)} {ks : List (BitVec 4)} {a : Long}
    (h : ∀ j k, ks[j]? = some k → t.readAt (a + BitVec.ofNat 32 j * stepOf .l).toNat .l = t.ctx.getR k) :
    t.loadedUp .l skip ks a = t := by
  induction ks generalizing a with
  | nil => rfl
  | cons k ks ih =>
    have first : t.withR k (sext .l (t.readAt a.toNat .l)) = t := by
      have held := h 0 k rfl
      rw [slot_zero] at held
      rw [held, State.withR, sext, Ctx.withR_self, State.withCtx_self]
    rw [State.loadedUp, first, ite_self]
    refine ih fun j q hj => ?_
    rw [← slot_succ]
    exact h (j + 1) q hj

/-! ### What the stores leave in memory -/

section

variable {s : State} {r : BitVec 3} {own : Long} {ks : List (BitVec 4)} {a : Long} {base i : Nat}

theorem State.storedDown_ctxs (s : State) (sz : Size) (r : BitVec 3) (own : Long) (ks : List (BitVec 4)) (a : Long) :
    (s.storedDown sz r own ks a).ctxs = s.ctxs ∧ (s.storedDown sz r own ks a).cur = s.cur ∧
      (s.storedDown sz r own ks a).params = s.params := by
  induction ks generalizing s a with
  | nil => exact ⟨rfl, rfl, rfl⟩
  | cons k ks ih =>
    obtain ⟨hctxs, hcur, hparams⟩ :=
      ih (s.wrote (a - stepOf sz) sz (if k = 1#1 ++ r then own else s.ctx.getR k)) (a - stepOf sz)
    exact ⟨hctxs.trans (State.wrote_ctxs _ _ _ _), hcur.trans (State.wrote_cur _ _ _ _),
      hparams.trans (State.wrote_params _ _ _ _)⟩

/-- Long words whose bytes are told apart by ADDR_BITS: a store to one leaves the other. -/
theorem State.wrote_readAt_other {v : Long} {m : Nat} (ha : a.toNat = base + 4 * m) (hlt : m < i)
    (hbits : 4 * (i + 1) ≤ 2 ^ s.params.addrBits) :
    (s.wrote a .l v).readAt (base + 4 * i) .l = s.readAt (base + 4 * i) .l := by
  have byte : ∀ x < 4, (s.wrote a .l v).byteAt (base + 4 * i + x) = s.byteAt (base + 4 * i + x) := by
    intro x hx
    unfold State.byteAt
    rw [State.wrote_params]
    refine State.wrote_get_other s a .l v fun j hj => ?_
    have hj : j < 4 := hj
    rw [ha, Nat.add_assoc, Nat.add_assoc]
    exact busAddr_ne (by omega) (by omega) (by omega)
  simp only [State.readAt, byte 1 (by decide), byte 2 (by decide), byte 3 (by decide)]
  rw [← Nat.add_zero (base + 4 * i), byte 0 (by decide)]

/-- The slot below an address. -/
theorem slot_below {m : Nat} (ha : a.toNat = base + 4 * (m + 1)) : (a - stepOf .l).toNat = base + 4 * m := by
  rw [BitVec.toNat_sub_of_le (BitVec.le_def.2 (by rw [ha]; change 4 ≤ _; omega)), ha]
  exact Nat.add_sub_cancel (base + 4 * m) 4

/-- Stores below leave the slots from `i` on. -/
theorem State.storedDown_readAt_above (ha : a.toNat = base + 4 * ks.length) (hi : ks.length ≤ i)
    (hbits : 4 * (i + 1) ≤ 2 ^ s.params.addrBits) :
    (s.storedDown .l r own ks a).readAt (base + 4 * i) .l = s.readAt (base + 4 * i) .l := by
  induction ks generalizing s a with
  | nil => rfl
  | cons k ks ih =>
    rw [List.length_cons] at ha hi
    have hslot := slot_below ha
    rw [State.storedDown, ih hslot (by omega) (by simpa using hbits)]
    exact State.wrote_readAt_other hslot hi hbits

/-- After the stores each slot holds its register, the first of the list at the top. -/
theorem State.storedDown_readAt (ha : a.toNat = base + 4 * ks.length) (hbits : 4 * ks.length ≤ 2 ^ s.params.addrBits)
    (hrom : ∀ x < 4 * ks.length, kindAt s.params (base + x) ≠ .rom) (hown : 1#1 ++ r ∉ ks) {k : BitVec 4}
    (hk : ks.reverse[i]? = some k) :
    (s.storedDown .l r own ks a).readAt (base + 4 * i) .l = s.ctx.getR k := by
  induction ks generalizing s a with
  | nil => simp at hk
  | cons q ks ih =>
    rw [List.length_cons] at ha hbits hrom
    obtain ⟨hq, hown⟩ := List.ne_and_not_mem_of_not_mem_cons hown
    have hslot := slot_below ha
    rw [State.storedDown, if_neg (Ne.symm hq)]
    rw [List.reverse_cons] at hk
    by_cases top : i < ks.length
    · rw [List.getElem?_append_left (by simpa using top)] at hk
      rw [ih hslot (by rw [State.wrote_params]; omega)
        (fun x hx => by rw [State.wrote_params]; exact hrom x (by omega)) hown hk, State.wrote_ctx]
    · have hi : i = ks.length := by
        have hlen := (List.getElem?_eq_some_iff.1 hk).1
        rw [List.length_append, List.length_reverse, List.length_singleton] at hlen
        omega
      subst hi
      have hk : q = k := by simpa using hk
      subst hk
      rw [State.storedDown_readAt_above hslot le_rfl (by rw [State.wrote_params]; omega), ← hslot]
      refine State.wrote_read s _ .l _ (by change 4 ≤ _; omega) fun x hx => ?_
      have hx : x < 4 := hx
      rw [hslot, Nat.add_assoc]
      exact hrom _ (by omega)

end

/-! ### The masks -/

/-- The mask of `-(An)` names the registers in the opposite order (R165). -/
theorem maskRegsDown_reversed (mask : Word) :
    maskRegsDown (BitVec.ofFnLE fun k : Fin 16 => mask.getLsbD (15 - k.val)) = (maskRegs mask).reverse := by
  have mirrored : ∀ k ∈ List.range 16,
      (BitVec.ofFnLE fun k : Fin 16 => mask.getLsbD (15 - k.val)).getLsbD k = mask.getLsbD (15 - k) := fun k hk => by
    have hk := List.mem_range.1 hk
    rw [BitVec.getLsbD_eq_getElem hk, BitVec.getElem_ofFnLE]
  have number : ∀ k ∈ List.range 16, 15#4 - BitVec.ofNat 4 k = BitVec.ofNat 4 (15 - k) := by decide
  have order : (List.range 16).map (15 - ·) = (List.range 16).reverse := by decide
  unfold maskRegsDown maskRegs
  rw [List.map_map, List.filter_congr mirrored, ← List.map_reverse, ← List.filter_reverse, ← order, List.filter_map,
    List.map_map]
  exact List.map_congr_left fun k hk => number k (List.mem_filter.1 hk).1

theorem address_not_mem_maskRegs {mask : Word} {r : BitVec 3} (h : mask.getLsbD (8 + r.toNat) = false) :
    1#1 ++ r ∉ maskRegs mask := by
  intro hmem
  obtain ⟨k, hk, e⟩ := List.mem_map.1 hmem
  obtain ⟨hrange, hset⟩ := List.mem_filter.1 hk
  have number : ∀ k ∈ List.range 16, ∀ r : BitVec 3, BitVec.ofNat 4 k = 1#1 ++ r → k = 8 + r.toNat := by decide
  rw [number k hrange r e, h] at hset
  cases hset

/-! ### The round trip -/

/-- Slots counted down from the top are those counted up from the bottom. -/
theorem slot_from_bottom (a : Long) {c j : Nat} (h : j < c) :
    a - BitVec.ofNat 32 (4 * c) + BitVec.ofNat 32 j * 4#32 = a - 4#32 + BitVec.ofNat 32 (c - 1 - j) * -4#32 := by
  obtain ⟨m, rfl⟩ : ∃ m, c = m + j + 1 := ⟨c - 1 - j, by omega⟩
  rw [show m + j + 1 - 1 - j = m by omega, BitVec.ofNat_mul, BitVec.ofNat_add, BitVec.ofNat_add,
    show BitVec.ofNat 32 1 = (1 : Long) from rfl]
  ring

theorem slotsReadable_of_writable_down {s : State} {a : Long} {c : Nat}
    (h : slotsWritable s .l (a - 4#32) (-4#32) c = true) :
    slotsReadable s .l (a - BitVec.ofNat 32 (4 * c)) 4#32 c = true := by
  rw [slotsReadable_iff]
  rw [slotsWritable_iff] at h
  intro j hj
  rw [slot_from_bottom a hj]
  exact readable_of_writable (h _ (by omega))

/-- The state after the registers of a list are pushed through `-(An)`. -/
def State.saved (s : State) (r : BitVec 3) (ks : List (BitVec 4)) : State :=
  let a := s.ctx.getA r
  s.finished 2 ((s.storedDown .l r (a - 4#32) ks.reverse a).withA r (a - BitVec.ofNat 32 (4 * ks.length)))

section

variable {s : State} {r : BitVec 3} {ks : List (BitVec 4)}

@[simp] theorem State.saved_params : (s.saved r ks).params = s.params := by
  obtain ⟨-, -, hparams⟩ := State.storedDown_ctxs s .l r (s.ctx.getA r - 4#32) ks.reverse (s.ctx.getA r)
  exact hparams

theorem State.saved_ctx : (s.saved r ks).ctx =
    { s.ctx.withA r (s.ctx.getA r - BitVec.ofNat 32 (4 * ks.length)) with pc := s.after 2 } := by
  obtain ⟨hctxs, hcur, -⟩ := State.storedDown_ctxs s .l r (s.ctx.getA r - 4#32) ks.reverse (s.ctx.getA r)
  rw [State.saved, State.finished, State.withPc_ctx, State.withA_ctx, State.ctx_congr hctxs hcur]

theorem State.saved_getA : (s.saved r ks).ctx.getA r = s.ctx.getA r - BitVec.ofNat 32 (4 * ks.length) := by
  rw [State.saved_ctx, Ctx.getA_withPc, Ctx.getA_withA_same]

theorem State.saved_untraced (hu : untraced s = true) : untraced (s.saved r ks) = true := by
  have hsr : (s.saved r ks).ctx.sr = s.ctx.sr := by rw [State.saved_ctx]; exact Ctx.withA_sr _ _ _
  unfold untraced at hu ⊢
  rwa [State.saved_params, hsr]

theorem State.saved_getR {k : BitVec 4} (hk : k ≠ 1#1 ++ r) : (s.saved r ks).ctx.getR k = s.ctx.getR k := by
  rw [State.saved_ctx, ← Ctx.withR_address]
  exact Ctx.getR_withR_other s.ctx _ hk

/-- Each slot of the saved list holds its register. -/
theorem State.saved_readAt (hout : 1#1 ++ r ∉ ks) (hlow : 4 * ks.length ≤ (s.ctx.getA r).toNat)
    (hbits : 4 * ks.length ≤ 2 ^ s.params.addrBits)
    (hrom : noRom s (s.ctx.getA r - BitVec.ofNat 32 (4 * ks.length)) (4 * ks.length) = true)
    {j : Nat} {k : BitVec 4} (hj : ks[j]? = some k) :
    (s.saved r ks).readAt (s.ctx.getA r - BitVec.ofNat 32 (4 * ks.length) + BitVec.ofNat 32 j * stepOf .l).toNat .l =
      (s.saved r ks).ctx.getR k := by
  have hlt : j < ks.length := (List.getElem?_eq_some_iff.1 hj).1
  have hmem : k ∈ ks := List.mem_of_getElem? hj
  have htop := (s.ctx.getA r).isLt
  have bottom : (s.ctx.getA r - BitVec.ofNat 32 (4 * ks.length)).toNat = (s.ctx.getA r).toNat - 4 * ks.length := by
    rw [BitVec.toNat_sub_of_le (by rw [BitVec.le_def, BitVec.toNat_ofNat]; omega), BitVec.toNat_ofNat]
    omega
  have slot : (s.ctx.getA r - BitVec.ofNat 32 (4 * ks.length) + BitVec.ofNat 32 j * stepOf .l).toNat =
      (s.ctx.getA r).toNat - 4 * ks.length + 4 * j := by
    rw [BitVec.toNat_add, bottom, BitVec.toNat_mul, BitVec.toNat_ofNat, show (stepOf .l).toNat = 4 from rfl]
    omega
  rw [slot, State.saved_getR fun e => hout (e ▸ hmem)]
  refine State.storedDown_readAt (own := s.ctx.getA r - 4#32) (ks := ks.reverse) ?_ ?_ ?_ ?_ ?_
  · rw [List.length_reverse]; omega
  · rwa [List.length_reverse]
  · rw [List.length_reverse]
    intro x hx
    rw [← bottom]
    exact kindAt_of_noRom hrom hx
  · rwa [List.mem_reverse]
  · rwa [List.reverse_reverse]

end

/-- Settles O36: after the stores each slot holds its register, so the loads change nothing, and `A[n]` comes back to
where it began. -/
theorem movemRoundTrip : Obligations.MovemRoundTrip := by
  intro s mask n hu hf hmask down count hlow hbits hrom hw
  have hcount : count = (maskRegs mask).length := (List.length_map _).symm
  rw [hcount] at hlow hbits hrom hw
  have hout := address_not_mem_maskRegs hmask
  refine ⟨s.saved n (maskRegs mask), ?_, fun hf' => ?_⟩
  · have hlist : maskRegsDown down = (maskRegs mask).reverse := maskRegsDown_reversed mask
    refine (opMovemStore_predec_run (mask := down) (sz := .l) hu hf ?_).trans ?_
    · rwa [hlist, List.length_reverse]
    · rw [hlist, List.length_reverse, State.saved, BitVec.ofNat_mul, BitVec.mul_comm]
      rfl
  · have hread := slotsReadable_of_writable_down hw
    rw [← slotsReadable_congr (State.saved_params (s := s) (r := n) (ks := maskRegs mask)), ← State.saved_getA] at hread
    refine ⟨_, opMovemLoad_postinc_last (State.saved_untraced hu) hf' hread (.inr hout), ?_⟩
    have same : (s.saved n (maskRegs mask)).loadedUp .l (some (1#1 ++ n)) (maskRegs mask)
        ((s.saved n (maskRegs mask)).ctx.getA n) = s.saved n (maskRegs mask) :=
      State.loadedUp_same fun j k hj => by
        rw [State.saved_getA]
        exact State.saved_readAt hout hlow hbits hrom hj
    have back : s.ctx.getA n - BitVec.ofNat 32 (4 * (maskRegs mask).length) +
        BitVec.ofNat 32 (maskRegs mask).length * stepOf .l = s.ctx.getA n := by
      rw [BitVec.ofNat_mul, BitVec.mul_comm]
      exact BitVec.sub_add_cancel _ _
    rw [same, State.finished, State.withPc_ctx, State.withA_ctx, State.after, State.saved_getA, back, State.saved_ctx,
      Ctx.withA_withPc, Ctx.withA_withA, Ctx.withA_self]
    exact congrArg (fun p => { s.ctx with pc := p }) (BitVec.add_assoc s.ctx.pc 4#32 4#32)

end Sys2Proof.Machine

/-! ## What instructions leave unchanged (00_scope.md R9, 20_memory.md R69, R70, 40_data_movement.md R160, R162)

`Framed cells regs s t` says that between `s` and `t` no cell of memory outside `cells`, no general register outside
`regs` and nothing else that an ordinary instruction keeps has changed. Each update of an instruction keeps it, so it is
read off the state that a shape's equation gives. -/

namespace Sys2Proof.Machine

/-! ### The system around an instruction -/

section

variable {s t : State}

theorem sameSystem.refl (s : State) : sameSystem s s where
  cur := rfl
  others _ _ := rfl
  cpu := rfl
  fcr := rfl
  mark := rfl
  irqs := rfl
  events := rfl
  extRegs := rfl
  params := rfl
  resetCtx := rfl
  vbr := rfl
  sfc := rfl
  dfc := rfl
  run := rfl
  jtagHalt := rfl
  status _ _ := rfl
  otherSp := rfl

theorem sameSystem.supervisor (h : sameSystem s t) : srS t.ctx.sr = srS s.ctx.sr := h.status 13 (by decide)

/-- The stack pointer that is not active. -/
def Ctx.otherSp (c : Ctx) : Long := if srS c.sr then c.usp else c.ssp

/-- A context that differs at most in its general registers, active stack pointer, pc and condition codes. -/
structure Ctx.SameSystem (c c' : Ctx) : Prop where
  vbr : c'.vbr = c.vbr
  sfc : c'.sfc = c.sfc
  dfc : c'.dfc = c.dfc
  run : c'.run = c.run
  jtagHalt : c'.jtagHalt = c.jtagHalt
  status : ∀ i, 5 ≤ i → c'.sr.getLsbD i = c.sr.getLsbD i
  otherSp : c'.otherSp = c.otherSp

theorem sameSystem.withCtx (h : sameSystem s t) {c : Ctx} (hc : t.ctx.SameSystem c) : sameSystem s (t.withCtx c) where
  cur := h.cur
  others j hj := (State.withCtx_other t c (h.cur ▸ hj)).trans (h.others j hj)
  cpu := h.cpu
  fcr := h.fcr
  mark := h.mark
  irqs := h.irqs
  events := h.events
  extRegs := h.extRegs
  params := h.params
  resetCtx := h.resetCtx
  vbr := by rw [State.ctx_withCtx, hc.vbr, h.vbr]
  sfc := by rw [State.ctx_withCtx, hc.sfc, h.sfc]
  dfc := by rw [State.ctx_withCtx, hc.dfc, h.dfc]
  run := by rw [State.ctx_withCtx, hc.run, h.run]
  jtagHalt := by rw [State.ctx_withCtx, hc.jtagHalt, h.jtagHalt]
  status i hi := by rw [State.ctx_withCtx, hc.status i hi, h.status i hi]
  otherSp := by
    have active : srS c.sr = srS s.ctx.sr := (hc.status 13 (by decide)).trans h.supervisor
    have kept := hc.otherSp
    unfold Ctx.otherSp at kept
    rw [active, h.supervisor] at kept
    rw [State.ctx_withCtx, kept, h.otherSp]

theorem Ctx.sameSystem_withD (c : Ctx) (r : BitVec 3) (v : Long) : c.SameSystem (c.withD r v) :=
  ⟨rfl, rfl, rfl, rfl, rfl, fun _ _ => rfl, rfl⟩

theorem Ctx.otherSp_withSp (c : Ctx) (v : Long) : (c.withSp v).otherSp = c.otherSp := by
  unfold Ctx.otherSp
  rw [Ctx.withSp_sr]
  unfold Ctx.withSp
  cases srS c.sr <;> rfl

theorem Ctx.otherSp_withA (c : Ctx) (r : BitVec 3) (v : Long) : (c.withA r v).otherSp = c.otherSp := by
  unfold Ctx.withA
  split
  · rfl
  · exact c.otherSp_withSp v

theorem Ctx.sameSystem_withA (c : Ctx) (r : BitVec 3) (v : Long) : c.SameSystem (c.withA r v) :=
  ⟨by simp, by simp, by simp, by simp, by simp, by simp, c.otherSp_withA r v⟩

theorem Ctx.sameSystem_withCcr (c : Ctx) (f : Ccr) : c.SameSystem { c with sr := putCcr c.sr f } :=
  ⟨rfl, rfl, rfl, rfl, rfl, fun _ hi => putCcr_high _ _ hi, by simp [Ctx.otherSp]⟩

theorem Ctx.sameSystem_withPc (c : Ctx) (v : Long) : c.SameSystem { c with pc := v } :=
  ⟨rfl, rfl, rfl, rfl, rfl, fun _ _ => rfl, rfl⟩

/-- A store leaves everything but memory and the list of stale bytes. -/
theorem sameSystem.wrote (h : sameSystem s t) (a : Long) (sz : Size) (v : Long) : sameSystem s (t.wrote a sz v) where
  cur := (State.wrote_cur _ _ _ _).trans h.cur
  others j hj := by rw [State.wrote_ctxs]; exact h.others j hj
  cpu := (State.wrote_cpu _ _ _ _).trans h.cpu
  fcr := (State.wrote_fcr _ _ _ _).trans h.fcr
  mark := (State.wrote_mark _ _ _ _).trans h.mark
  irqs := (State.wrote_irqs _ _ _ _).trans h.irqs
  events := (State.wrote_events _ _ _ _).trans h.events
  extRegs := (State.wrote_extRegs _ _ _ _).trans h.extRegs
  params := (State.wrote_params _ _ _ _).trans h.params
  resetCtx := (State.wrote_resetCtx _ _ _ _).trans h.resetCtx
  vbr := by rw [State.wrote_ctx, h.vbr]
  sfc := by rw [State.wrote_ctx, h.sfc]
  dfc := by rw [State.wrote_ctx, h.dfc]
  run := by rw [State.wrote_ctx, h.run]
  jtagHalt := by rw [State.wrote_ctx, h.jtagHalt]
  status i hi := by rw [State.wrote_ctx, h.status i hi]
  otherSp := by rw [State.wrote_ctx, h.otherSp]

theorem sameSystem.drew (h : sameSystem s t) (n : Nat) : sameSystem s (t.drew n) :=
  { h with }

end

/-! ### Frames -/

/-- Between `s` and `t` only memory in `cells`, the general registers `regs`, the pc, the condition codes, the list of
stale bytes and the count of free values may have changed. -/
structure Framed (cells : Nat → Prop) (regs : List (BitVec 4)) (s t : State) : Prop where
  memory : ∀ b, ¬ cells b → t.mem.get b = s.mem.get b
  registers : sameRegisters s t regs
  system : sameSystem s t

/-- Memory as a whole is kept. -/
def noCells (_ : Nat) : Prop := False

/-- The cells of an operand of size `sz` at a place. -/
def operandCells (p : Params) (sz : Size) (l : Loc) (b : Nat) : Prop :=
  ∃ a, l = .mem a ∧ ∃ j < sz.bytes, b = busAddr p (a.toNat + j)

section

variable {cells : Nat → Prop} {regs : List (BitVec 4)} {s t : State}

theorem Framed.refl (cells : Nat → Prop) (regs : List (BitVec 4)) (s : State) : Framed cells regs s s :=
  ⟨fun _ _ => rfl, fun _ _ => rfl, .refl s⟩

theorem Framed.withCtx (h : Framed cells regs s t) {c : Ctx} (hc : t.ctx.SameSystem c)
    (hr : ∀ k, k ∉ regs → c.getR k = t.ctx.getR k) : Framed cells regs s (t.withCtx c) where
  memory := h.memory
  registers k hk := by rw [State.ctx_withCtx, hr k hk, h.registers k hk]
  system := h.system.withCtx hc

theorem Framed.withD (h : Framed cells regs s t) {r : BitVec 3} (hr : 0#1 ++ r ∈ regs) (sz : Size) (v : Long) :
    Framed cells regs s (t.withD r sz v) :=
  h.withCtx (Ctx.sameSystem_withD _ _ _) fun k hk => by
    rw [← Ctx.withR_data]
    exact Ctx.getR_withR_other _ _ fun e => hk (e ▸ hr)

theorem Framed.withA (h : Framed cells regs s t) {r : BitVec 3} (hr : 1#1 ++ r ∈ regs) (v : Long) :
    Framed cells regs s (t.withA r v) :=
  h.withCtx (Ctx.sameSystem_withA _ _ _) fun k hk => by
    rw [← Ctx.withR_address]
    exact Ctx.getR_withR_other _ _ fun e => hk (e ▸ hr)

theorem Framed.withCcr (h : Framed cells regs s t) (f : Ccr) : Framed cells regs s (t.withCcr f) :=
  h.withCtx (Ctx.sameSystem_withCcr _ _) fun k _ => by simp [Ctx.getR]

theorem Framed.withPc (h : Framed cells regs s t) (v : Long) : Framed cells regs s (t.withPc v) :=
  h.withCtx (Ctx.sameSystem_withPc _ _) fun _ _ => rfl

theorem Framed.drew (h : Framed cells regs s t) (n : Nat) : Framed cells regs s (t.drew n) :=
  ⟨h.memory, h.registers, h.system.drew n⟩

theorem Framed.bump (h : Framed cells regs s t) {p : Place} (hp : bumped p ⊆ regs) :
    Framed cells regs s (t.bump p) := by
  unfold State.bump
  cases hu : p.upd with
  | none => exact h
  | some u => exact h.withA (hp (by simp [bumped, hu])) u.2

theorem Framed.storeAt (h : Framed cells regs s t) {p : Place} {sz : Size} (hp : destination p ⊆ regs)
    (hc : ∀ b, operandCells s.params sz p.loc b → cells b) (v : Long) : Framed cells regs s (t.storeAt sz v p.loc) := by
  cases hl : p.loc with
  | dreg r => exact h.withD (hp (by simp [destination, hl])) sz v
  | mem a =>
    refine ⟨fun b hb => ?_, fun k hk => ?_, h.system.wrote a sz v⟩
    · rw [← h.memory b hb]
      refine State.wrote_get_other t a sz v fun j hj e => hb (hc b ⟨a, hl, j, hj, ?_⟩)
      rwa [h.system.params] at e
    · rw [← h.registers k hk]
      exact congrArg (Ctx.getR · k) (State.wrote_ctx t a sz v)
  | areg | imm => exact h

/-- A store at an operand's place, the register update of its mode, and flags. -/
theorem Framed.stored (h : Framed cells regs s t) {p : Place} {sz : Size} (hd : destination p ⊆ regs)
    (hb : bumped p ⊆ regs) (hc : ∀ b, operandCells s.params sz p.loc b → cells b) (v : Long) (f : Ccr) :
    Framed cells regs s (((t.storeAt sz v p.loc).bump p).withCcr f) :=
  ((h.storeAt hd hc v).bump hb).withCcr f

/-- What an operand's mode and a store at its place change. -/
theorem framed_stored {p : Place} {sz : Size} (n : Nat) (v : Long) (f : Ccr) :
    Framed (operandCells s.params sz p.loc) (destination p ++ bumped p) s
      ((((s.drew n).storeAt sz v p.loc).bump p).withCcr f) :=
  ((Framed.refl _ _ s).drew n).stored (List.subset_append_left _ _) (List.subset_append_right _ _) (fun _ hb => hb) v f

/-! ### Instructions that complete within a frame -/

/-- The outcome is a next state, and within the frame. -/
def EndsFramed (cells : Nat → Prop) (regs : List (BitVec 4)) (s : State) (o : Step) : Prop :=
  ∃ t, o = .next t ∧ Framed cells regs s t

theorem EndsFramed.next {o : Step} (h : EndsFramed cells regs s o) (ho : o = .next t) : Framed cells regs s t := by
  obtain ⟨u, rfl, hu⟩ := h
  cases ho
  exact hu

theorem endsFramed_run {words : Nat} {body : M Flow} (hu : untraced s = true) (hb : body s = .ok .next t)
    (h : Framed cells regs s t) : EndsFramed cells regs s (runInstr words body s) :=
  ⟨_, runInstr_next hu hb, h.withPc _⟩

/-! ### Instructions that read one operand -/

section

variable {src : EA} {sz : Size} (hu : untraced s = true) (hs : sourceReady s src sz 0 = true)
include hu hs

/-- An instruction that reads its operand and then changes no memory and, among the registers, only `regs`. -/
theorem endsFramed_read {words : Nat} {rest : Long → M Flow} (regs : List (BitVec 4))
    (h : ∀ v t, Framed noCells (regs ++ bumped (placeOf s src sz 0)) s t →
      ∃ u, rest v t = .ok .next u ∧ Framed noCells (regs ++ bumped (placeOf s src sz 0)) s u) :
    EndsFramed noCells (regs ++ bumped (placeOf s src sz 0)) s (runInstr words (readEA src sz 0 >>= rest) s) := by
  obtain ⟨u, hrest, hframe⟩ := h (valueAt s sz (placeOf s src sz 0).loc) (s.bump (placeOf s src sz 0))
    ((Framed.refl _ _ s).bump (List.subset_append_right _ _))
  exact endsFramed_run hu ((M_bind_ok (readEA_run hs) _).trans hrest) hframe

variable (r : BitVec 3)

theorem opEaToDn_framed (f : Size → Alu) :
    EndsFramed noCells ([0#1 ++ r] ++ bumped (placeOf s src sz 0)) s (opEaToDn f sz r src s) :=
  endsFramed_read hu hs _ fun _ t ht =>
    ⟨(t.withD r sz _).withCcr _, rfl, (ht.withD (List.mem_append_left _ List.mem_cons_self) _ _).withCcr _⟩

theorem opMovea_framed : EndsFramed noCells ([1#1 ++ r] ++ bumped (placeOf s src sz 0)) s (opMovea sz src r s) :=
  endsFramed_read hu hs _ fun _ t ht =>
    ⟨t.withA r _, rfl, ht.withA (List.mem_append_left _ List.mem_cons_self) _⟩

theorem opAddressArith_framed (g : Long → Long → Long) :
    EndsFramed noCells ([1#1 ++ r] ++ bumped (placeOf s src sz 0)) s (opAddressArith g sz r src s) :=
  endsFramed_read hu hs _ fun _ t ht =>
    ⟨t.withA r _, rfl, ht.withA (List.mem_append_left _ List.mem_cons_self) _⟩

theorem opCmp_framed : EndsFramed noCells ([] ++ bumped (placeOf s src sz 0)) s (opCmp sz r src s) :=
  endsFramed_read hu hs _ fun _ t ht => ⟨t.withCcr _, rfl, ht.withCcr _⟩

theorem opCmpa_framed : EndsFramed noCells ([] ++ bumped (placeOf s src sz 0)) s (opCmpa sz r src s) :=
  endsFramed_read hu hs _ fun _ t ht => ⟨t.withCcr _, rfl, ht.withCcr _⟩

theorem opTst_framed : EndsFramed noCells ([] ++ bumped (placeOf s src sz 0)) s (opTst sz src s) :=
  endsFramed_read hu hs _ fun _ t ht => ⟨t.withCcr _, rfl, ht.withCcr _⟩

end

theorem opMulW_framed {src : EA} (hu : untraced s = true) (hs : sourceReady s src .w 0 = true) (signed : Bool)
    (r : BitVec 3) : EndsFramed noCells ([0#1 ++ r] ++ bumped (placeOf s src .w 0)) s (opMulW signed r src s) :=
  endsFramed_read hu hs _ fun _ t ht =>
    ⟨(t.withD r .l _).withCcr _, rfl, (ht.withD (List.mem_append_left _ List.mem_cons_self) _ _).withCcr _⟩

/-- Settles O57: each shape ends framed, by what it does after its operand is read. -/
theorem frameOfReads : Obligations.FrameOfReads := by
  intro s t r src hu
  have reads : ∀ {regs o}, EndsFramed noCells regs s o → o = .next t →
      sameMemory s t ∧ sameRegisters s t regs ∧ sameSystem s t := fun ho hx =>
    have frame := ho.next hx
    ⟨fun b => frame.memory b id, frame.registers, frame.system⟩
  have toDn := fun f sz (hs : sourceReady s src sz 0 = true) => reads (opEaToDn_framed hu hs r f)
  have arith := fun g sz (hs : sourceReady s src sz 0 = true) => reads (opAddressArith_framed hu hs r g)
  have movea := fun sz (hs : sourceReady s src sz 0 = true) => reads (opMovea_framed hu hs r)
  have cmp := fun sz (hs : sourceReady s src sz 0 = true) => reads (opCmp_framed hu hs r)
  have cmpa := fun sz (hs : sourceReady s src sz 0 = true) => reads (opCmpa_framed hu hs r)
  have tst := fun sz (hs : sourceReady s src sz 0 = true) => reads (opTst_framed hu hs)
  have mul := fun signed (hs : sourceReady s src .w 0 = true) => reads (opMulW_framed hu hs signed r)
  simp only [List.forall_mem_cons, List.not_mem_nil, false_implies, implies_true, and_true]
  exact ⟨toDn aluAdd .b, toDn aluAdd .w, toDn aluAdd .l, toDn aluSub .b, toDn aluSub .w, toDn aluSub .l,
    toDn aluAnd .b, toDn aluAnd .w, toDn aluAnd .l, toDn aluOr .b, toDn aluOr .w, toDn aluOr .l,
    cmp .b, cmp .w, cmp .l, tst .b, tst .w, tst .l, movea .w, arith (· + ·) .w, arith (· - ·) .w, cmpa .w,
    movea .l, arith (· + ·) .l, arith (· - ·) .l, cmpa .l, mul true, mul false⟩

/-! ### Instructions that store -/

section

variable {dst : EA} {sz : Size} {k : Nat}

/-- A read-modify-write whose computation only draws free values. -/
theorem modifyEA_framed {f : Long → Ccr → M (Long × Ccr)} (hm : modifyReady s dst sz k = true)
    (hf : ∀ d c, ∃ r n, f d c s = .ok r (s.drew n)) :
    ∃ t, modifyEA dst sz k f s = .ok () t ∧
      Framed (operandCells s.params sz (placeOf s dst sz k).loc)
        (destination (placeOf s dst sz k) ++ bumped (placeOf s dst sz k)) s t := by
  obtain ⟨r, n, hrun⟩ := hf (valueAt s sz (placeOf s dst sz k).loc) s.ctx.ccr
  exact ⟨_, modifyEA_run hm hrun rfl, framed_stored n r.1 r.2⟩

theorem modifyEAFlagsFirst_framed {f : Long → Ccr → Long × Ccr} (hm : modifyReady s dst sz k = true) :
    ∃ t, modifyEAFlagsFirst dst sz k f s = .ok () t ∧
      Framed (operandCells s.params sz (placeOf s dst sz k).loc)
        (destination (placeOf s dst sz k) ++ bumped (placeOf s dst sz k)) s t :=
  ⟨_, modifyEAFlagsFirst_run hm, framed_stored 0 _ _⟩

/-- NBCD draws N and V, and the byte and the carry where the operand is no decimal (R344, R345). -/
theorem bcdSub_draws (v d : Long) (f : Ccr) (s : State) : ∃ r n, bcdSub v d f s = .ok r (s.drew n) := by
  unfold bcdSub
  split
  · exact ⟨_, 2, rfl⟩
  · exact ⟨_, 4, rfl⟩

theorem targetReady_of_modifyReady (h : modifyReady s dst sz k = true) : targetReady s dst sz k = true := by
  simp only [modifyReady, Bool.and_eq_true] at h
  obtain ⟨⟨hl, -⟩, hw⟩ := h
  rw [targetReady, hl, hw]
  rfl

/-- The frame of an instruction that stores at its operand's place. -/
abbrev EndsStored (s : State) (dst : EA) (sz : Size) (o : Step) : Prop :=
  EndsFramed (operandCells s.params sz (placeOf s dst sz 0).loc)
    (destination (placeOf s dst sz 0) ++ bumped (placeOf s dst sz 0)) s o

section

variable (hu : untraced s = true) (hm : modifyReady s dst sz 0 = true)
include hu hm

theorem opDnToEa_framed (f : Size → Alu) (r : BitVec 3) : EndsStored s dst sz (opDnToEa f sz r dst s) :=
  have ⟨_, hrun, hf⟩ := modifyEA_framed hm fun _ _ => ⟨_, 0, rfl⟩
  endsFramed_run hu ((M_bind_read _ _ _).trans (M_bind_ok hrun _)) hf

theorem opSingle_framed (f : Size → Alu) : EndsStored s dst sz (opSingle f sz dst s) :=
  have ⟨_, hrun, hf⟩ := modifyEA_framed hm fun _ _ => ⟨_, 0, rfl⟩
  endsFramed_run hu (M_bind_ok hrun _) hf

/-- An address register cannot be read and written as an operand, so ADDQ and SUBQ are a read-modify-write here. -/
theorem opQuick_framed (f : Size → Alu) (g : Long → Long → Long) (q : BitVec 3) :
    EndsStored s dst sz (opQuick f g sz q dst s) := by
  obtain ⟨t, hrun, hf⟩ := modifyEA_framed (f := pureAlu (f sz) (quickData q)) hm fun _ _ => ⟨_, 0, rfl⟩
  refine endsFramed_run hu ?_ hf
  cases dst with
  | an n => simp [modifyReady, placeOf, writableAt] at hm
  | _ => exact M_bind_ok hrun _

theorem opClr_framed : EndsStored s dst sz (opClr sz dst s) :=
  endsFramed_run hu ((M_bind_ok (writeEA_run (targetReady_of_modifyReady hm) _) _).trans rfl) (framed_stored 0 _ _)

end

section

variable (hu : untraced s = true)
include hu

theorem opShiftMem_framed (hm : modifyReady s dst .w 0 = true) (k : Shift) :
    EndsStored s dst .w (opShiftMem k dst s) :=
  have ⟨_, hrun, hf⟩ := modifyEAFlagsFirst_framed hm
  endsFramed_run hu (M_bind_ok hrun _) hf

variable (hm : modifyReady s dst .b 0 = true)
include hm

theorem opNbcd_framed : EndsStored s dst .b (opNbcd dst s) :=
  have ⟨_, hrun, hf⟩ := modifyEA_framed hm fun d c => bcdSub_draws d 0#32 c s
  endsFramed_run hu (M_bind_ok hrun _) hf

theorem opTas_framed : EndsStored s dst .b (opTas dst s) :=
  have ⟨_, hrun, hf⟩ := modifyEAFlagsFirst_framed hm
  endsFramed_run hu (M_bind_ok hrun _) hf

theorem opScc_framed (cc : BitVec 4) : EndsStored s dst .b (opScc cc dst s) :=
  endsFramed_run hu ((M_bind_read _ _ _).trans (M_bind_ok (writeEA_run (targetReady_of_modifyReady hm) _) _))
    (((Framed.refl _ _ s).storeAt (List.subset_append_left _ _) (fun _ hb => hb) _).bump (List.subset_append_right _ _))

end

/-- MOVE updates the registers of both modes, the source's first, and stores at the destination (R70, R162). -/
theorem opMove_framed {src : EA} (hu : untraced s = true) (hs : sourceReady s src sz 0 = true)
    (ht : targetReady (s.bump (placeOf s src sz 0)) dst sz (src.extWords sz) = true) :
    let q := placeOf (s.bump (placeOf s src sz 0)) dst sz (src.extWords sz)
    ∀ t, opMove sz src dst s = .next t →
      Framed (operandCells s.params sz q.loc) (destination q ++ bumped (placeOf s src sz 0) ++ bumped q) s t := by
  intro q t hx
  have hd : destination q ⊆ destination q ++ bumped (placeOf s src sz 0) ++ bumped q := fun _ hk =>
    List.mem_append_left _ (List.mem_append_left _ hk)
  have hq : bumped q ⊆ destination q ++ bumped (placeOf s src sz 0) ++ bumped q := List.subset_append_right _ _
  have source : Framed (operandCells s.params sz q.loc) (destination q ++ bumped (placeOf s src sz 0) ++ bumped q) s
      (s.bump (placeOf s src sz 0)) :=
    (Framed.refl _ _ s).bump fun _ hk => List.mem_append_left _ (List.mem_append_right _ hk)
  cases hself : storesItself src dst with
  | false =>
    cases (opMove_run hu hs ht hself).symm.trans hx
    exact (source.stored hd hq (fun _ hb => hb) _ _).withPc _
  | true =>
    cases hp : s.params.undefined with
    | refuse => cases (opMove_storesItself_refused hs hself hp).symm.trans hx
    | free =>
      cases (opMove_storesItself_free hu hs ht hself hp).symm.trans hx
      exact ((source.drew 1).stored hd hq (fun _ hb => hb) _ _).withPc _

/-- A frame whose cells are those of one operand, in the words of Sys2Proof/Safety.lean. -/
theorem Framed.outsideOperand {l : Loc} (h : Framed (operandCells s.params sz l) regs s t) :
    (∀ a, l = .mem a → sameMemoryOutside s t a sz.bytes) ∧ (∀ x, l = .dreg x → sameMemory s t) ∧
      sameRegisters s t regs ∧ sameSystem s t := by
  refine ⟨fun a ha b hb => h.memory b ?_, fun x hx b => h.memory b ?_, h.registers, h.system⟩
  · rintro ⟨a', ha', j, hj, e⟩
    cases ha.symm.trans ha'
    exact hb j hj e
  · rintro ⟨a', ha', -⟩
    cases hx.symm.trans ha'

/-- Settles O58: each shape ends framed by its operand. -/
theorem frameOfStores : Obligations.FrameOfStores := by
  refine ⟨fun s t r cc dst hu => ?_, fun s t src dst hu => ?_⟩
  · have stores : ∀ {sz o}, EndsStored s dst sz o → o = .next t →
        (∀ a, (placeOf s dst sz 0).loc = .mem a → sameMemoryOutside s t a sz.bytes) ∧
        (∀ x, (placeOf s dst sz 0).loc = .dreg x → sameMemory s t) ∧
        sameRegisters s t (destination (placeOf s dst sz 0) ++ bumped (placeOf s dst sz 0)) ∧ sameSystem s t :=
      fun ho hx => (ho.next hx).outsideOperand
    have dnToEa := fun f sz (hm : modifyReady s dst sz 0 = true) => stores (opDnToEa_framed hu hm f r)
    have single := fun f sz (hm : modifyReady s dst sz 0 = true) => stores (opSingle_framed hu hm f)
    have quick := fun f g sz (hm : modifyReady s dst sz 0 = true) => stores (opQuick_framed hu hm f g r)
    have clr := fun sz (hm : modifyReady s dst sz 0 = true) => stores (opClr_framed hu hm)
    have shift := fun k (hm : modifyReady s dst .w 0 = true) => stores (opShiftMem_framed hu hm k)
    simp only [List.forall_mem_cons, List.not_mem_nil, false_implies, implies_true, and_true]
    exact ⟨dnToEa aluAdd .b, dnToEa aluAdd .w, dnToEa aluAdd .l, dnToEa aluSub .b, dnToEa aluSub .w, dnToEa aluSub .l,
      dnToEa aluAnd .b, dnToEa aluAnd .w, dnToEa aluAnd .l, dnToEa aluOr .b, dnToEa aluOr .w, dnToEa aluOr .l,
      dnToEa aluEor .b, dnToEa aluEor .w, dnToEa aluEor .l,
      single aluNeg .b, single aluNeg .w, single aluNeg .l, single aluNegx .b, single aluNegx .w, single aluNegx .l,
      single aluNot .b, single aluNot .w, single aluNot .l, clr .b, clr .w, clr .l,
      quick aluAdd (· + ·) .b, quick aluAdd (· + ·) .w, quick aluAdd (· + ·) .l,
      quick aluSub (· - ·) .b, quick aluSub (· - ·) .w, quick aluSub (· - ·) .l,
      shift .asl, shift .asr, shift .lsl, shift .lsr, shift .rol, shift .ror, shift .roxl, shift .roxr,
      fun hm => stores (opNbcd_framed hu hm), fun hm => stores (opTas_framed hu hm),
      fun hm => stores (opScc_framed hu hm cc)⟩
  · simp only [List.forall_mem_cons, List.not_mem_nil, false_implies, implies_true, and_true]
    refine ⟨?_, ?_, ?_⟩ <;> exact fun hs ht hx => (opMove_framed hu hs ht t hx).outsideOperand

end

end

end Sys2Proof.Machine

/-! ## Faults of data accesses (20_memory.md R66, R78, 40_data_movement.md R160 c, 60_exceptions.md R465)

A check that forbids an access stops the computation in the state reached so far; the instruction then ends faulted in
that state by `runInstr_faulted`. -/

namespace Sys2Proof.Machine

section

variable {s : State} {ea : EA} {sz : Size} {k : Nat} {a : Long} {e : Stop}

/-! ### Where an operation stops -/

theorem memRead_stop (h : accessCheck s.params a sz = some e) : memRead a sz s = .error e s := by
  rw [memRead_cases, h]

theorem memWrite_stop (h : writeCheck s.params a sz = some e) (v : Long) : memWrite a sz v s = .error e s := by
  rw [memWrite_cases, h]

/-- SP is not moved. -/
theorem push_stop (h : writeCheck s.params (s.ctx.sp - stepOf sz) sz = some e) (v : Long) :
    push sz v s = .error e s := by
  rw [push, M_bind_ok (getSp_run s), M_bind_error (memWrite_stop h v)]

section

variable (hl : located s ea sz k = true) (ha : (placeOf s ea sz k).loc = .mem a)
include hl ha

theorem readEA_stop (h : accessCheck s.params a sz = some e) : readEA ea sz k s = .error e s := by
  rw [readEA, M_bind_ok (locate_run hl), ha]
  exact M_bind_error (memRead_stop h) _

theorem writeEA_stop (h : writeCheck s.params a sz = some e) (v : Long) : writeEA ea sz k v s = .error e s := by
  rw [writeEA, M_bind_ok (locate_run hl), ha]
  exact M_bind_error (memWrite_stop h v) _

/-- A read-modify-write stops at its read, or at its store with nothing changed. -/
theorem modifyEA_stop {f : Alu} {v : Long}
    (h : accessCheck s.params a sz = some e ∨ accessCheck s.params a sz = none ∧ writeCheck s.params a sz = some e) :
    modifyEA ea sz k (pureAlu f v) s = .error e s := by
  rw [modifyEA, M_bind_ok (locate_run hl), ha]
  rcases h with read | ⟨read, write⟩
  · exact M_bind_error (memRead_stop read) _
  · refine (M_bind_ok (memRead_run (by rw [readable, read]; rfl)) _).trans ?_
    exact M_bind_error (memWrite_stop write _) _

theorem modifyEAFlagsFirst_stop_read {f : Long → Ccr → Long × Ccr} (h : accessCheck s.params a sz = some e) :
    modifyEAFlagsFirst ea sz k f s = .error e s := by
  rw [modifyEAFlagsFirst, M_bind_ok (locate_run hl), ha]
  exact M_bind_error (memRead_stop h) _

/-- Where the flags come first a store that stops leaves them set (log 51). -/
theorem modifyEAFlagsFirst_stop_write {f : Long → Ccr → Long × Ccr} (hr : accessCheck s.params a sz = none)
    (h : writeCheck s.params a sz = some e) :
    modifyEAFlagsFirst ea sz k f s = .error e (s.withCcr (f (s.readAt a.toNat sz) s.ctx.ccr).2) := by
  rw [modifyEAFlagsFirst, M_bind_ok (locate_run hl), ha]
  refine (M_bind_ok (memRead_run (by rw [readable, hr]; rfl)) _).trans ?_
  exact M_bind_error (memWrite_stop (s := s.withCcr _) h _) _

end

/-! ### Instructions that stop there -/

variable {kind : MemFault} {x : Long} {words : Nat}

section

variable (hl : located s ea sz 0 = true) (ha : (placeOf s ea sz 0).loc = .mem a)
include hl ha

theorem readFirst_faulted {rest : Long → M Flow} (h : accessCheck s.params a sz = some (.exc (kind.exc x))) :
    endsFaulted s kind x s.ctx.pc (runInstr words (readEA ea sz 0 >>= rest) s) :=
  runInstr_faulted (M_bind_error (readEA_stop hl ha h) _)

section

variable (h : accessCheck s.params a sz = some (.exc (kind.exc x)) ∨
  accessCheck s.params a sz = none ∧ writeCheck s.params a sz = some (.exc (kind.exc x)))
include h

theorem opDnToEa_faulted (f : Size → Alu) (r : BitVec 3) : endsFaulted s kind x s.ctx.pc (opDnToEa f sz r ea s) :=
  runInstr_faulted ((M_bind_read _ _ _).trans (M_bind_error (modifyEA_stop hl ha h) _))

theorem opSingle_faulted (f : Size → Alu) : endsFaulted s kind x s.ctx.pc (opSingle f sz ea s) :=
  runInstr_faulted (M_bind_error (modifyEA_stop hl ha h) _)

theorem opQuick_faulted (f : Size → Alu) (g : Long → Long → Long) (q : BitVec 3) :
    endsFaulted s kind x s.ctx.pc (opQuick f g sz q ea s) := by
  refine runInstr_faulted ?_
  have stop := modifyEA_stop (f := f sz) (v := quickData q) hl ha h
  cases ea with
  | an n => cases ha
  | _ => exact M_bind_error stop _

end

/-- An instruction that sets its flags before it stores, and does nothing before that. -/
theorem flagsFirst_faulted {f : Long → Ccr → Long × Ccr} {rest : Unit → M Flow} :
    (accessCheck s.params a sz = some (.exc (kind.exc x)) →
      endsFaulted s kind x s.ctx.pc (runInstr words (modifyEAFlagsFirst ea sz 0 f >>= rest) s)) ∧
    (accessCheck s.params a sz = none → writeCheck s.params a sz = some (.exc (kind.exc x)) →
      endsFaulted (s.withCcr (f (s.readAt a.toNat sz) s.ctx.ccr).2) kind x s.ctx.pc
        (runInstr words (modifyEAFlagsFirst ea sz 0 f >>= rest) s)) :=
  ⟨fun h => runInstr_faulted (M_bind_error (modifyEAFlagsFirst_stop_read hl ha h) _),
    fun hr h => runInstr_faulted (M_bind_error (modifyEAFlagsFirst_stop_write hl ha hr h) _)⟩

theorem opClr_faulted (h : writeCheck s.params a sz = some (.exc (kind.exc x))) :
    endsFaulted s kind x s.ctx.pc (opClr sz ea s) :=
  runInstr_faulted (M_bind_error (writeEA_stop hl ha h _) _)

end

theorem opScc_faulted (hl : located s ea .b 0 = true) (ha : (placeOf s ea .b 0).loc = .mem a)
    (h : writeCheck s.params a .b = some (.exc (kind.exc x))) (cc : BitVec 4) :
    endsFaulted s kind x s.ctx.pc (opScc cc ea s) :=
  runInstr_faulted ((M_bind_read _ _ _).trans (M_bind_error (writeEA_stop hl ha h _) _))

/-- MOVE from CCR has flushed the pipeline before its store (log 17). -/
theorem opMoveFromCcr_faulted (hl : located s ea .w 0 = true) (ha : (placeOf s ea .w 0).loc = .mem a)
    (h : writeCheck s.params a .w = some (.exc (kind.exc x))) :
    endsFaulted s.flush kind x s.ctx.pc (opMoveFromCcr ea s) := by
  refine runInstr_faulted ((M_bind_read _ _ _).trans (M_bind_error ?_ _))
  rw [writeWordFlushing, M_bind_ok (locate_run hl), M_bind_ok (flushPipeline_run s), ha]
  exact M_bind_error (memWrite_stop (s := s.flush) h _) _

/-- A MOVE whose store faults has made the update of its source. -/
theorem opMove_store_faulted {src dst : EA} (hs : sourceReady s src sz 0 = true) (hself : storesItself src dst = false)
    (hl : located (s.bump (placeOf s src sz 0)) dst sz (src.extWords sz) = true)
    (ha : (placeOf (s.bump (placeOf s src sz 0)) dst sz (src.extWords sz)).loc = .mem a)
    (h : writeCheck s.params a sz = some (.exc (kind.exc x))) :
    endsFaulted (s.bump (placeOf s src sz 0)) kind x s.ctx.pc (opMove sz src dst s) := by
  refine runInstr_faulted ?_
  rw [M_bind_ok (readEA_run hs), hself]
  exact M_bind_error (writeEA_stop hl ha (by rwa [State.bump_params]) _) _

theorem opShiftMem_faulted (hl : located s ea .w 0 = true) (ha : (placeOf s ea .w 0).loc = .mem a) (k : Shift) :
    (accessCheck s.params a .w = some (.exc (kind.exc x)) → endsFaulted s kind x s.ctx.pc (opShiftMem k ea s)) ∧
    (accessCheck s.params a .w = none → writeCheck s.params a .w = some (.exc (kind.exc x)) →
      endsFaulted (s.withCcr (shiftBy k .w 1 (s.readAt a.toNat .w) s.ctx.ccr).2) kind x s.ctx.pc (opShiftMem k ea s)) :=
  flagsFirst_faulted hl ha

theorem opTas_faulted (hl : located s ea .b 0 = true) (ha : (placeOf s ea .b 0).loc = .mem a) :
    (accessCheck s.params a .b = some (.exc (kind.exc x)) → endsFaulted s kind x s.ctx.pc (opTas ea s)) ∧
    (accessCheck s.params a .b = none → writeCheck s.params a .b = some (.exc (kind.exc x)) →
      endsFaulted (s.withCcr (logicFlags .b (s.readAt a.toNat .b) s.ctx.ccr)) kind x s.ctx.pc (opTas ea s)) :=
  flagsFirst_faulted hl ha

/-- An instruction is what its body does in the state it begins in. -/
theorem runInstr_congr {body body' : M Flow} (h : body s = body' s) :
    runInstr words body s = runInstr words body' s := by
  unfold runInstr
  rw [h]

/-- BCHG, BCLR and BSET on memory, with the number of the bit in a register (R322). -/
theorem opBitDynamic_faulted (hl : located s ea .b 0 = true) (ha : (placeOf s ea .b 0).loc = .mem a)
    (g : Long → Nat → Long) (r : BitVec 3) :
    (accessCheck s.params a .b = some (.exc (kind.exc x)) →
      endsFaulted s kind x s.ctx.pc (opBitDynamic g r ea s)) ∧
    (accessCheck s.params a .b = none → writeCheck s.params a .b = some (.exc (kind.exc x)) →
      endsFaulted (s.withCcr { s.ctx.ccr with z := !(s.readAt a.toNat .b).getLsbD ((s.ctx.getD r).toNat % 8) })
        kind x s.ctx.pc (opBitDynamic g r ea s)) := by
  have byte : bitSize ea = .b := by
    cases ea with
    | dn n => cases ha
    | _ => rfl
  have modify : bitModify g (s.ctx.getD r) ea 0 = modifyEAFlagsFirst ea .b 0 fun v f =>
      (g v ((s.ctx.getD r).toNat % 8), bitFlags v ((s.ctx.getD r).toNat % 8) f) := by
    simp only [bitModify, bitIndex, byte, Size.bits]
  have hexec : opBitDynamic g r ea s = runInstr (1 + ea.extWords .b) (do
      bitModify g (s.ctx.getD r) ea 0
      return .next) s := runInstr_congr (M_bind_read _ _ _)
  rw [hexec, modify]
  exact flagsFirst_faulted hl ha

/-! ### Pushes and pops -/

section

variable (h : writeCheck s.params (s.ctx.sp - 4#32) .l = some (.exc (kind.exc x)))
include h

theorem opPea_faulted (ha : addressReady s ea 0 = true) : endsFaulted s kind x s.ctx.pc (opPea ea s) :=
  runInstr_faulted ((M_bind_ok (addrEA_run ha) _).trans (M_bind_error (push_stop (sz := .l) h _) _))

theorem opJsr_faulted (ha : addressReady s ea 0 = true) : endsFaulted s kind x s.ctx.pc (opJsr ea s) :=
  runInstr_faulted ((M_bind_ok (addrEA_run ha) _).trans
    ((M_bind_ok (nextAddr_run _ _) _).trans (M_bind_error (push_stop (sz := .l) h _) _)))

/-- BSR pushes before it fetches its displacement words (log 42). -/
theorem opBsr_faulted (d : Disp) : endsFaulted s kind x s.ctx.pc (opBsr d s) :=
  runInstr_faulted ((M_bind_ok (nextAddr_run _ _) _).trans (M_bind_error (push_stop (sz := .l) h _) _))

end

section

variable (h : accessCheck s.params s.ctx.sp .l = some (.exc (kind.exc x)))
include h

theorem opRts_faulted : endsFaulted s kind x s.ctx.pc (opRts s) :=
  runInstr_faulted ((M_bind_ok (getSp_run s) _).trans (M_bind_error (memRead_stop h) _))

/-- RTD reads before it fetches its displacement word (log 42). -/
theorem opRtd_faulted (w : Word) : endsFaulted s kind x s.ctx.pc (opRtd w s) :=
  runInstr_faulted ((M_bind_ok (getSp_run s) _).trans (M_bind_error (memRead_stop h) _))

end

theorem opRtr_faulted_ccr (h : accessCheck s.params s.ctx.sp .w = some (.exc (kind.exc x))) :
    endsFaulted s kind x s.ctx.pc (opRtr s) :=
  runInstr_faulted ((M_bind_ok (getSp_run s) _).trans (M_bind_error (memRead_stop h) _))

theorem opRtr_faulted_pc (hr : readable s s.ctx.sp .w = true)
    (h : accessCheck s.params (s.ctx.sp + 2#32) .l = some (.exc (kind.exc x))) :
    endsFaulted s kind x s.ctx.pc (opRtr s) :=
  runInstr_faulted ((M_bind_ok (getSp_run s) _).trans
    ((M_bind_ok (memRead_run hr) _).trans (M_bind_error (memRead_stop h) _)))

theorem opUnlk_faulted {r : BitVec 3} (hr : r ≠ 7#3)
    (h : accessCheck s.params (s.ctx.getA r) .l = some (.exc (kind.exc x))) :
    endsFaulted s kind x s.ctx.pc (opUnlk r s) := by
  refine runInstr_faulted ?_
  rw [if_neg hr]
  exact (M_bind_ok (getA_run _ _) _).trans (M_bind_error (memRead_stop h) _)

end

/-- Settles O60: each shape by the rule above for the access at which it stops. -/
theorem accessFaults : Obligations.AccessFaults := by
  intro s r cc src dst ea d w kind x why ends
  refine ⟨fun row hrow a hl ha h => ?_, ?_, ?_, ?_, ?_, fun h => ⟨fun ha => ⟨opPea_faulted h ha, opJsr_faulted h ha⟩,
    opBsr_faulted h d⟩, fun h => ⟨opRts_faulted h, opRtd_faulted h w⟩, opRtr_faulted_ccr, opRtr_faulted_pc,
    opUnlk_faulted⟩
  · have reads : ∃ words rest, exec row.1 s = runInstr words (readEA src row.2 0 >>= rest) s := by
      -- each row's arm of `exec` is a shape whose first operation is the read
      clear hl ha h
      fin_cases hrow <;> exact ⟨_, _, rfl⟩
    obtain ⟨words, rest, hexec⟩ := reads
    simp only [ends, hexec]
    exact readFirst_faulted hl ha h
  all_goals simp only [List.forall_mem_cons, List.not_mem_nil, false_implies, implies_true, and_true]
  · have dnToEa := fun f sz a (hl : located s dst sz 0 = true) (ha : (placeOf s dst sz 0).loc = .mem a) h =>
      opDnToEa_faulted (kind := kind) (x := x) hl ha h f r
    have quick := fun f g sz a (hl : located s dst sz 0 = true) (ha : (placeOf s dst sz 0).loc = .mem a) h =>
      opQuick_faulted (kind := kind) (x := x) hl ha h f g r
    have single := fun f sz a (hl : located s dst sz 0 = true) (ha : (placeOf s dst sz 0).loc = .mem a) h =>
      opSingle_faulted (kind := kind) (x := x) hl ha h f
    exact ⟨dnToEa aluAdd .b, dnToEa aluAdd .w, dnToEa aluAdd .l, dnToEa aluSub .b, dnToEa aluSub .w, dnToEa aluSub .l,
      dnToEa aluAnd .b, dnToEa aluAnd .w, dnToEa aluAnd .l, dnToEa aluOr .b, dnToEa aluOr .w, dnToEa aluOr .l,
      dnToEa aluEor .b, dnToEa aluEor .w, dnToEa aluEor .l,
      quick aluAdd (· + ·) .b, quick aluAdd (· + ·) .w, quick aluAdd (· + ·) .l,
      quick aluSub (· - ·) .b, quick aluSub (· - ·) .w, quick aluSub (· - ·) .l,
      single aluNeg .b, single aluNeg .w, single aluNeg .l, single aluNegx .b, single aluNegx .w, single aluNegx .l,
      single aluNot .b, single aluNot .w, single aluNot .l⟩
  · have shift := fun k a (hl : located s dst .w 0 = true) (ha : (placeOf s dst .w 0).loc = .mem a) =>
      opShiftMem_faulted (kind := kind) (x := x) hl ha k
    have bit := fun g a (hl : located s dst .b 0 = true) (ha : (placeOf s dst .b 0).loc = .mem a) =>
      opBitDynamic_faulted (kind := kind) (x := x) hl ha g r
    exact ⟨shift .asl, shift .asr, shift .lsl, shift .lsr, shift .rol, shift .ror, shift .roxl, shift .roxr,
      bit bitChange, bit bitClear, bit bitSet, fun a hl ha => opTas_faulted hl ha⟩
  · exact ⟨fun a hl ha => opClr_faulted hl ha, fun a hl ha => opClr_faulted hl ha, fun a hl ha => opClr_faulted hl ha,
      fun a hl ha h => opScc_faulted hl ha h cc, fun a hl ha => opMoveFromCcr_faulted hl ha⟩
  · refine ⟨?_, ?_, ?_⟩ <;> exact fun a hs hself hl ha => opMove_store_faulted hs hself hl ha

end Sys2Proof.Machine

/-! ## Integer arithmetic and logic (41_integer_arithmetic.md, 43_logic.md, 47_program_control.md R356,
48_system_control.md R387, R389, 49_trapping.md R423)

Each shape has an equation for the next state it gives, in the terms of Sys2Proof/Safety.lean; an obligation lists the
instructions of a shape. -/

namespace Sys2Proof.Machine

/-! ### Results and flags (R202 to R214, R271 to R278) -/

theorem trunc_getLsbD (sz : Size) (v : Long) {i : Nat} (h : i < 32) :
    (trunc sz v).getLsbD i = (decide (i < sz.bits) && v.getLsbD i) := by
  cases sz with
  | b | w =>
    simp only [trunc, BitVec.getLsbD_setWidth, h, decide_true, Bool.true_and]
    rfl
  | l => simp [trunc, Size.bits, h]

/-- What a logical operation of bitwise result `v` gives. -/
theorem logic_meaning (sz : Size) (v : Long) (f : Ccr) :
    (∀ i < 32, (trunc sz v).getLsbD i = (decide (i < sz.bits) && v.getLsbD i)) ∧
      (logicFlags sz v f).x = f.x ∧ (logicFlags sz v f).n = v.getLsbD (sz.bits - 1) ∧
      ((logicFlags sz v f).z = true ↔ trunc sz v = 0#32) ∧
      (logicFlags sz v f).v = false ∧ (logicFlags sz v f).c = false :=
  ⟨fun _ hi => trunc_getLsbD sz v hi, rfl, rfl, decide_eq_true_iff, rfl, rfl⟩

/-- Settles O22: sums and differences by `sumFlags` and `stickyFlags`, the others by `logic_meaning`. -/
theorem aluMeaning : Obligations.AluMeaning := by
  intro sz s d f
  have plainZ : ∀ t : Sum, (sumFlags sz t).z = (t.res == 0#32 && true) := fun _ => (Bool.and_true _).symm
  have stickyZ : ∀ t : Sum, (stickyFlags sz t f).z = (t.res == 0#32 && f.z) := fun _ => rfl
  simp only [List.forall_mem_cons, List.not_mem_nil, false_implies, implies_true, and_true]
  refine ⟨⟨?_, ?_, ?_, ?_, ?_, ?_⟩, logic_meaning sz (s &&& d) f, logic_meaning sz (s ||| d) f,
    logic_meaning sz (s ^^^ d) f, logic_meaning sz (~~~d) f⟩
  case refine_1 | refine_2 | refine_3 => exact ⟨rfl, rfl, rfl, rfl, rfl, plainZ _⟩
  case refine_4 | refine_5 | refine_6 => exact ⟨rfl, rfl, rfl, rfl, rfl, stickyZ _⟩

section

variable {s : State} {sz : Size}

/-! ### A data register and an operand (R202, R207, R272, R274, R276) -/

theorem opEaToDn_run {src : EA} (hu : untraced s = true) (hs : sourceReady s src sz 0 = true) (f : Size → Alu)
    (r : BitVec 3) :
    opEaToDn f sz r src s =
      let p := placeOf s src sz 0
      let out := f sz (valueAt s sz p.loc) (trunc sz (s.ctx.getD r)) s.ctx.ccr
      .next (s.finished (1 + src.extWords sz) (((s.bump p).withD r sz out.1).withCcr out.2)) := by
  refine runInstr_next hu ?_
  rw [M_bind_ok (readEA_run hs), M_bind_ok (readLoc_run (l := .dreg r) rfl), M_bind_ok (getCcr_run _), valueAt,
    State.bump_getD, State.bump_ccr]
  rfl

section

variable {dst : EA}

/-- A read-modify-write by an operation of fixed result. -/
theorem modifyEA_pureAlu {k : Nat} (hm : modifyReady s dst sz k = true) (f : Alu) (v : Long) :
    modifyEA dst sz k (pureAlu f v) s =
      let p := placeOf s dst sz k
      let out := f v (valueAt s sz p.loc) s.ctx.ccr
      .ok () (((s.storeAt sz out.1 p.loc).bump p).withCcr out.2) := modifyEA_run hm rfl rfl

theorem opDnToEa_run (hu : untraced s = true) (hm : modifyReady s dst sz 0 = true) (f : Size → Alu) (r : BitVec 3) :
    opDnToEa f sz r dst s =
      let p := placeOf s dst sz 0
      let out := f sz (trunc sz (s.ctx.getD r)) (valueAt s sz p.loc) s.ctx.ccr
      .next (s.finished (1 + dst.extWords sz) (((s.storeAt sz out.1 p.loc).bump p).withCcr out.2)) := by
  refine runInstr_next hu ?_
  rw [M_bind_ok (readLoc_run (l := .dreg r) rfl), M_bind_ok (modifyEA_pureAlu hm _ _)]
  rfl

/-! ### Immediates, quick data, one operand (R204, R205, R209, R210, R213, R214, R273, R275, R277, R278) -/

theorem opImmToEa_run (hu : untraced s = true) (f : Size → Alu) (imm : Long) (hf : fetchable s 0 (immCount sz) = true)
    (hm : modifyReady s dst sz (immCount sz) = true) :
    opImmToEa f sz imm dst s =
      let p := placeOf s dst sz (immCount sz)
      let out := f sz imm (valueAt s sz p.loc) s.ctx.ccr
      .next (s.finished (1 + immCount sz + dst.extWords sz)
        (((s.storeAt sz out.1 p.loc).bump p).withCcr out.2)) := by
  refine runInstr_next hu ?_
  rw [M_bind_ok (touchExt_run hf), M_bind_ok (modifyEA_pureAlu hm _ _)]
  rfl

theorem opSingle_run (hu : untraced s = true) (f : Size → Alu) (hm : modifyReady s dst sz 0 = true) :
    opSingle f sz dst s =
      let p := placeOf s dst sz 0
      let out := f sz 0#32 (valueAt s sz p.loc) s.ctx.ccr
      .next (s.finished (1 + dst.extWords sz) (((s.storeAt sz out.1 p.loc).bump p).withCcr out.2)) := by
  refine runInstr_next hu ?_
  rw [M_bind_ok (modifyEA_pureAlu hm _ _)]
  rfl

/-- An operand that can be written is no address register, so ADDQ and SUBQ are a read-modify-write here. -/
theorem opQuick_run (hu : untraced s = true) (f : Size → Alu) (g : Long → Long → Long) (q : BitVec 3)
    (hm : modifyReady s dst sz 0 = true) :
    opQuick f g sz q dst s =
      let p := placeOf s dst sz 0
      let out := f sz (quickData q) (valueAt s sz p.loc) s.ctx.ccr
      .next (s.finished (1 + dst.extWords sz) (((s.storeAt sz out.1 p.loc).bump p).withCcr out.2)) := by
  refine runInstr_next hu ?_
  have hrun := modifyEA_pureAlu hm (f sz) (quickData q)
  cases dst with
  | an n => simp [modifyReady, placeOf, writableAt] at hm
  | _ => exact M_bind_ok hrun _

theorem opQuick_address (hu : untraced s = true) (f : Size → Alu) (g : Long → Long → Long) (q y : BitVec 3) :
    opQuick f g sz q (.an y) s = .next (s.finished 1 (s.withA y (g (s.ctx.getA y) (quickData q)))) :=
  runInstr_next (body := do
    setA y (g (← getA y) (quickData q))
    return .next) hu rfl

end

end

/-- Settles O26: by the equations of `opEaToDn` and `opDnToEa`. -/
theorem aluToRegister : Obligations.AluToRegister := by
  refine ⟨fun s r src hu => ?_, fun s r dst hu => ?_⟩
  · have toDn := fun f sz (hs : sourceReady s src sz 0 = true) => opEaToDn_run hu hs f r
    simp only [List.forall_mem_cons, List.not_mem_nil, false_implies, implies_true, and_true]
    exact ⟨toDn aluAdd .b, toDn aluAdd .w, toDn aluAdd .l, toDn aluSub .b, toDn aluSub .w, toDn aluSub .l,
      toDn aluAnd .b, toDn aluAnd .w, toDn aluAnd .l, toDn aluOr .b, toDn aluOr .w, toDn aluOr .l⟩
  · have toEa := fun f sz (hm : modifyReady s dst sz 0 = true) => opDnToEa_run hu hm f r
    simp only [List.forall_mem_cons, List.not_mem_nil, false_implies, implies_true, and_true]
    exact ⟨toEa aluAdd .b, toEa aluAdd .w, toEa aluAdd .l, toEa aluSub .b, toEa aluSub .w, toEa aluSub .l,
      toEa aluAnd .b, toEa aluAnd .w, toEa aluAnd .l, toEa aluOr .b, toEa aluOr .w, toEa aluOr .l,
      toEa aluEor .b, toEa aluEor .w, toEa aluEor .l⟩

/-- Settles O27: by the equations of `opImmToEa`, `opQuick` and `opSingle`. -/
theorem modifyForms : Obligations.ModifyForms := by
  intro s r y b w l dst hu
  have imm := fun f sz v => opImmToEa_run (s := s) (sz := sz) (dst := dst) hu f v
  have quick := fun f g sz (_ : fetchable s 0 0 = true) => opQuick_run (sz := sz) (dst := dst) hu f g r
  have single := fun f sz (_ : fetchable s 0 0 = true) => opSingle_run (sz := sz) (dst := dst) hu f
  have address := fun f g sz => opQuick_address (sz := sz) hu f g r y
  simp only [List.forall_mem_cons, List.not_mem_nil, false_implies, implies_true, and_true]
  exact ⟨⟨imm aluOr .b _, imm aluOr .w _, imm aluOr .l _, imm aluAnd .b _, imm aluAnd .w _, imm aluAnd .l _,
      imm aluSub .b _, imm aluSub .w _, imm aluSub .l _, imm aluAdd .b _, imm aluAdd .w _, imm aluAdd .l _,
      imm aluEor .b _, imm aluEor .w _, imm aluEor .l _,
      quick aluAdd (· + ·) .b, quick aluAdd (· + ·) .w, quick aluAdd (· + ·) .l,
      quick aluSub (· - ·) .b, quick aluSub (· - ·) .w, quick aluSub (· - ·) .l,
      single aluNeg .b, single aluNeg .w, single aluNeg .l, single aluNegx .b, single aluNegx .w, single aluNegx .l,
      single aluNot .b, single aluNot .w, single aluNot .l⟩,
    address aluAdd (· + ·) .w, address aluAdd (· + ·) .l, address aluSub (· - ·) .w, address aluSub (· - ·) .l⟩

section

variable {s : State} {sz : Size}

/-! ### Writes without a read (R212, R356, R387, R389) -/

section

variable {dst : EA}

theorem opClr_run (hu : untraced s = true) (ht : targetReady s dst sz 0 = true) :
    opClr sz dst s =
      let p := placeOf s dst sz 0
      .next (s.finished (1 + dst.extWords sz) (((s.storeAt sz 0#32 p.loc).bump p).withCcr
        { s.ctx.ccr with n := false, z := true, v := false, c := false })) := by
  have zeroFlags : ∀ f, logicFlags sz 0#32 f = { f with n := false, z := true, v := false, c := false } := fun f => by
    cases sz <;> rfl
  refine runInstr_next hu ((storeThenFlags_run ht _).trans ?_)
  rw [zeroFlags]

theorem opScc_run (hu : untraced s = true) (ht : targetReady s dst .b 0 = true) (cc : BitVec 4) :
    opScc cc dst s =
      let p := placeOf s dst .b 0
      .next (s.finished (1 + dst.extWords .b)
        ((s.storeAt .b (if cond cc s.ctx.ccr then 0xFF#32 else 0#32) p.loc).bump p)) := by
  refine runInstr_next hu ?_
  rw [M_bind_ok (getCcr_run s), M_bind_ok (writeEA_run ht _)]
  rfl

/-- The store comes after the flush, so its bytes are stale (log 17). -/
theorem writeWordFlushing_run (ht : targetReady s dst .w 0 = true) (v : Word) :
    writeWordFlushing dst v s =
      let p := placeOf s dst .w 0
      .ok () ((s.flush.storeAt .w (v.setWidth 32) p.loc).bump p) := by
  simp only [targetReady, Bool.and_eq_true] at ht
  obtain ⟨hl, hw⟩ := ht
  have flushed : writableAt s.flush .w (placeOf s dst .w 0).loc = true := (writableAt_congr rfl _ _).trans hw
  rw [writeWordFlushing, M_bind_ok (locate_run hl), M_bind_ok (flushPipeline_run s), M_bind_ok (writeLoc_run flushed _),
    commit_run]

theorem opMoveFromCcr_run (hu : untraced s = true) (ht : targetReady s dst .w 0 = true) :
    opMoveFromCcr dst s =
      let p := placeOf s dst .w 0
      .next (s.finished (1 + dst.extWords .w) ((s.flush.storeAt .w (s.ctx.ccr.bits.setWidth 32) p.loc).bump p)) := by
  have widen : ((s.ctx.ccr.bits.setWidth 16 : Word).setWidth 32 : Long) = s.ctx.ccr.bits.setWidth 32 :=
    BitVec.setWidth_setWidth (by decide)
  refine runInstr_next hu ?_
  rw [M_bind_ok (getCcr_run s), M_bind_ok (writeWordFlushing_run ht _), widen]
  rfl

theorem opMoveFromSr_run (hu : untraced s = true) (ht : targetReady s dst .w 0 = true) (hs : srS s.ctx.sr = true) :
    opMoveFromSr dst s =
      let p := placeOf s dst .w 0
      .next (s.finished (1 + dst.extWords .w) ((s.flush.storeAt .w (s.srWord.setWidth 32) p.loc).bump p)) := by
  refine runInstr_next hu ?_
  rw [M_bind_ok (requireSupervisor_run hs), M_bind_read, M_bind_ok (writeWordFlushing_run ht _)]
  rfl

end

/-! ### Compares and tests (R216 to R219, R279) -/

section

variable {src : EA} (hu : untraced s = true)
include hu

theorem opCmp_run (hs : sourceReady s src sz 0 = true) (r : BitVec 3) :
    opCmp sz r src s =
      let p := placeOf s src sz 0
      .next (s.finished (1 + src.extWords sz)
        ((s.bump p).withCcr (compareCcr sz (valueAt s sz p.loc) (s.ctx.getD r) s.ctx.ccr))) := by
  refine runInstr_next hu ?_
  rw [M_bind_ok (readEA_run hs), M_bind_ok (getD_run _ _), M_bind_ok (getCcr_run _), State.bump_getD, State.bump_ccr]
  rfl

/-- The address register is compared as the source's own update leaves it. -/
theorem opCmpa_run (hs : sourceReady s src sz 0 = true) (r : BitVec 3) :
    opCmpa sz r src s =
      let p := placeOf s src sz 0
      .next (s.finished (1 + src.extWords sz) ((s.bump p).withCcr
        (compareCcr .l (sext sz (valueAt s sz p.loc)) ((s.bump p).ctx.getA r) s.ctx.ccr))) := by
  refine runInstr_next hu ?_
  rw [M_bind_ok (readEA_run hs), M_bind_ok (getA_run _ _), M_bind_ok (getCcr_run _), State.bump_ccr]
  rfl

theorem opImmCompare_run (imm : Long) (hf : fetchable s 0 (immCount sz) = true)
    (hs : sourceReady s src sz (immCount sz) = true) :
    opImmCompare sz imm src s =
      let p := placeOf s src sz (immCount sz)
      .next (s.finished (1 + immCount sz + src.extWords sz)
        ((s.bump p).withCcr (compareCcr sz imm (valueAt s sz p.loc) s.ctx.ccr))) := by
  refine runInstr_next hu ?_
  rw [M_bind_ok (touchExt_run hf), M_bind_ok (readEA_run hs), M_bind_ok (getCcr_run _), State.bump_ccr]
  rfl

/-- The destination is located after the source's update, so one register through both operands steps twice. -/
theorem opCmpm_run (x y : BitVec 3) (hs : sourceReady s (.postinc y) sz 0 = true)
    (hd : sourceReady (s.bump (placeOf s (.postinc y) sz 0)) (.postinc x) sz 0 = true) :
    opCmpm sz x y s =
      let p := placeOf s (.postinc y) sz 0
      let t := s.bump p
      let q := placeOf t (.postinc x) sz 0
      .next (s.finished 1
        ((t.bump q).withCcr (compareCcr sz (valueAt s sz p.loc) (valueAt t sz q.loc) s.ctx.ccr))) := by
  refine runInstr_next hu ?_
  rw [M_bind_ok (readEA_run hs), M_bind_ok (readEA_run hd), M_bind_ok (getCcr_run _), State.bump_ccr, State.bump_ccr]
  rfl

theorem opTst_run (hs : sourceReady s src sz 0 = true) :
    opTst sz src s =
      let p := placeOf s src sz 0
      .next (s.finished (1 + src.extWords sz)
        ((s.bump p).withCcr (logicFlags sz (valueAt s sz p.loc) s.ctx.ccr))) := by
  refine runInstr_next hu ?_
  rw [M_bind_ok (readEA_run hs), M_bind_ok (setLogicFlags_run _ _ _), State.bump_ccr]
  rfl

end

/-! ### Operations with X (R206, R211) -/

section

variable (hu : untraced s = true) (f : Alu) (x y : BitVec 3)
include hu

theorem opExtended_registers :
    opExtended (pureAlu f) sz x false y s =
      let out := f (trunc sz (s.ctx.getD y)) (trunc sz (s.ctx.getD x)) s.ctx.ccr
      .next (s.finished 1 ((s.withD x sz out.1).withCcr out.2)) := by
  have source : sourceReady s (.dn y) sz 0 = true := rfl
  have destination : modifyReady s (.dn x) sz 0 = true := rfl
  refine runInstr_next hu ((M_bind_ok (readEA_run source) _).trans ?_)
  exact M_bind_ok (modifyEA_pureAlu destination f _) _

theorem opExtended_memory (hs : sourceReady s (.predec y) sz 0 = true)
    (hm : modifyReady (s.bump (placeOf s (.predec y) sz 0)) (.predec x) sz 0 = true) :
    opExtended (pureAlu f) sz x true y s =
      let p := placeOf s (.predec y) sz 0
      let t := s.bump p
      let q := placeOf t (.predec x) sz 0
      let out := f (valueAt s sz p.loc) (valueAt t sz q.loc) s.ctx.ccr
      .next (s.finished 1 (((t.storeAt sz out.1 q.loc).bump q).withCcr out.2)) := by
  refine runInstr_next hu ((M_bind_ok (readEA_run hs) _).trans ?_)
  refine (M_bind_ok (modifyEA_pureAlu hm f _) _).trans ?_
  rw [State.bump_ccr]
  rfl

end

end

/-- Settles O28: each form by its equation above. -/
theorem writeOnlyForms : Obligations.WriteOnlyForms := by
  intro s dst cc hu
  simp only [List.forall_mem_cons, List.not_mem_nil, false_implies, implies_true, and_true]
  exact ⟨⟨opClr_run hu, opClr_run hu, opClr_run hu⟩, fun ht => opScc_run hu ht cc,
    fun ht => ⟨opMoveFromCcr_run hu ht, opMoveFromSr_run hu ht⟩⟩

/-- Settles O31: each form by its equation above; `compareCcr` is the flags of `aluSub` but for X. -/
theorem compareForms : Obligations.CompareForms := by
  intro s r x y src b w l hu
  have cmp := fun sz (hs : sourceReady s src sz 0 = true) => opCmp_run hu hs r
  have cmpa := fun sz (hs : sourceReady s src sz 0 = true) => opCmpa_run hu hs r
  have cmpi := fun sz v => opImmCompare_run (src := src) (sz := sz) hu v
  have cmpm := fun sz => opCmpm_run (sz := sz) hu x y
  have tst := fun sz (hs : sourceReady s src sz 0 = true) => opTst_run hu hs
  simp only [List.forall_mem_cons, List.not_mem_nil, false_implies, implies_true, and_true]
  exact ⟨⟨cmp .b, cmp .w, cmp .l⟩, ⟨cmpa .w, cmpa .l⟩, ⟨cmpi .b _, cmpi .w _, cmpi .l _⟩,
    ⟨cmpm .b, cmpm .w, cmpm .l⟩, tst .b, tst .w, tst .l⟩

/-- Settles O32: each form by the equations of `opExtended`. -/
theorem extendedForms : Obligations.ExtendedForms := by
  intro s x y hu
  have forms := fun sz f => And.intro (opExtended_registers (sz := sz) hu f x y) (opExtended_memory (sz := sz) hu f x y)
  simp only [List.forall_mem_cons, List.not_mem_nil, false_implies, implies_true, and_true]
  exact ⟨forms .b (aluAddx .b), forms .w (aluAddx .w), forms .l (aluAddx .l),
    forms .b (aluSubx .b), forms .w (aluSubx .w), forms .l (aluSubx .l)⟩

/-! ### What the test of bounds means (R220)

Values of half range `h` stand on a circle of `2 * h`; the test compares how far the upper bound and the value lie
above the lower bound. -/

theorem unsignedOf_sub (sz : Size) (x y : Long) :
    (unsignedOf sz (x - y) : Int) = ((unsignedOf sz x : Int) - unsignedOf sz y) % (2 * 2 ^ (sz.bits - 1)) := by
  cases sz <;> simp only [unsignedOf, trunc, Size.bits, BitVec.toNat_setWidth, BitVec.toNat_sub] <;> omega

/-- The distance from `b` up to `a`. -/
theorem sub_emod_circle {h a b : Int} (ha : 0 ≤ a ∧ a < 2 * h) (hb : 0 ≤ b ∧ b < 2 * h) :
    (a - b) % (2 * h) = if b ≤ a then a - b else a - b + 2 * h := by
  split
  · exact Int.emod_eq_of_lt (by omega) (by omega)
  · rw [← Int.add_emod_right, Int.emod_eq_of_lt (by omega) (by omega)]

section

variable {h x l u : Int} (hx : 0 ≤ x ∧ x < 2 * h) (hl : 0 ≤ l ∧ l < 2 * h) (hu : 0 ≤ u ∧ u < 2 * h)
include hx hl hu

theorem outside_iff_unsigned (ho : l ≤ u) : (u - l) % (2 * h) < (x - l) % (2 * h) ↔ x < l ∨ u < x := by
  rw [sub_emod_circle hu hl, sub_emod_circle hx hl]
  split_ifs <;> omega

/-- The signed values are the same circle cut at another place. -/
theorem outside_iff_signed (ho : signedFrom h l ≤ signedFrom h u) :
    (u - l) % (2 * h) < (x - l) % (2 * h) ↔
      signedFrom h x < signedFrom h l ∨ signedFrom h u < signedFrom h x := by
  rw [sub_emod_circle hu hl, sub_emod_circle hx hl]
  unfold signedFrom at *
  split_ifs at * <;> omega

end

theorem boundsOut_iff (sz : Size) (x lb ub : Long) :
    boundsOut sz x lb ub = true ↔
      ((unsignedOf sz ub : Int) - unsignedOf sz lb) % (2 * 2 ^ (sz.bits - 1)) <
        ((unsignedOf sz x : Int) - unsignedOf sz lb) % (2 * 2 ^ (sz.bits - 1)) := by
  rw [boundsOut, decide_eq_true_iff, ← unsignedOf_sub, ← unsignedOf_sub, Int.ofNat_lt]

theorem boundsOut_iff_unsigned {sz : Size} {lb ub : Long} (ho : unsignedOf sz lb ≤ unsignedOf sz ub) (x : Long) :
    boundsOut sz x lb ub = true ↔ unsignedOf sz x < unsignedOf sz lb ∨ unsignedOf sz ub < unsignedOf sz x := by
  rw [boundsOut_iff, outside_iff_unsigned (unsignedOf_range sz x) (unsignedOf_range sz lb) (unsignedOf_range sz ub)
    (Int.ofNat_le.2 ho), Int.ofNat_lt, Int.ofNat_lt]

theorem boundsOut_iff_signed {sz : Size} {lb ub : Long} (ho : signedOf sz lb ≤ signedOf sz ub) (x : Long) :
    boundsOut sz x lb ub = true ↔ signedOf sz x < signedOf sz lb ∨ signedOf sz ub < signedOf sz x := by
  simp only [signedOf_eq_signedFrom] at ho ⊢
  rw [boundsOut_iff, outside_iff_signed (unsignedOf_range sz x) (unsignedOf_range sz lb) (unsignedOf_range sz ub) ho]

theorem boundsEqual_iff (sz : Size) (x lb ub : Long) :
    boundsEqual sz x lb ub = true ↔ unsignedOf sz x = unsignedOf sz lb ∨ unsignedOf sz x = unsignedOf sz ub := by
  simp only [boundsEqual, unsignedOf, Bool.or_eq_true, decide_eq_true_iff, BitVec.toNat_inj]

theorem boundsOrdered_iff (sz : Size) (lb ub : Long) :
    boundsOrdered sz lb ub = true ↔ unsignedOf sz lb ≤ unsignedOf sz ub ∨ signedOf sz lb ≤ signedOf sz ub := by
  simp only [boundsOrdered, Bool.or_eq_true, decide_eq_true_iff]

/-! ### CMP2 and CHK2 (R221, R423) -/

/-- The size at which a register is compared with its bounds: an address register as 32 bits (R220). -/
def boundSize (sz : Size) (xr : BitVec 4) : Size := if xr.getLsbD 3 then .l else sz

/-- The bound at an address, sign-extended for an address register (R220). -/
def boundAt (s : State) (sz : Size) (xr : BitVec 4) (a : Long) : Long :=
  if xr.getLsbD 3 then sext sz (s.readAt a.toNat sz) else s.readAt a.toNat sz

/-- The flags of CMP2 and CHK2 set: N and V free, X kept (R221). -/
def State.compared (s : State) (equal out : Bool) : State :=
  (s.drew 2).withCcr { x := s.ctx.ccr.x, n := s.freeBit 0, z := equal, v := s.freeBit 1, c := out }

theorem specialWord_run {s : State} (hf : fetchable s 0 1 = true) : specialWord true s = .ok () s :=
  M_bind_ok (touchExt_run hf) _

/-- A nonzero reserved bit of the special word is refused before anything else (Q9). -/
theorem specialWord_stop {s : State} (hf : fetchable s 0 1 = true) :
    specialWord false s = .error (.refuse .reservedBits) s := M_bind_ok (touchExt_run hf) _

section

variable {s : State} {sz : Size} {xr : BitVec 4} {a : Long}

/-- The test answers where the bounds are ordered, once both are read (log 15). -/
theorem boundsTest_run (hl : readable s a sz = true) (hub : readable s (a + stepOf sz) sz = true) :
    boundsTest sz xr a s =
      let m := boundSize sz xr
      let lb := boundAt s sz xr a
      let ub := boundAt s sz xr (a + stepOf sz)
      if boundsOrdered m lb ub then .ok (boundsEqual m (s.ctx.getR xr) lb ub, boundsOut m (s.ctx.getR xr) lb ub) s
      else .error (.refuse .unorderedBounds) s := by
  rw [boundsTest, M_bind_ok (memRead_run hl), M_bind_ok (memRead_run hub), M_bind_ok (getR_run _ _)]
  exact apply_ite (fun c : M (Bool × Bool) => c s) _ _ _

theorem boundsFlags_run {equal out : Bool} (ht : boundsTest sz xr a s = .ok (equal, out) s) :
    boundsFlags sz xr a s = .ok out (s.compared equal out) := by
  rw [boundsFlags, M_bind_ok ht]
  rfl

theorem boundsFlags_stop {e : Stop} (ht : boundsTest sz xr a s = .error e s) : boundsFlags sz xr a s = .error e s :=
  M_bind_error ht _

end

section

variable {s : State} {sz : Size} {xr : BitVec 4} {rsv : BitVec 11} {ea : EA} (hf : fetchable s 0 1 = true)
include hf

theorem reservedBits_refused (hr : rsv ≠ 0#11) (words : Nat) (rest : Unit → M Flow) :
    runInstr words (specialWord (rsv == 0#11) >>= rest) s = .refused .reservedBits := by
  rw [beq_false_of_ne hr]
  exact runInstr_refused (M_bind_error (specialWord_stop hf) _)

variable (hr : rsv = 0#11) (ha : addressReady s ea 1 = true)
include hr ha

/-- The operand's address, once the special word has no reserved bit. -/
theorem boundsAddress_run (rest : Long → M Flow) :
    (do specialWord (rsv == 0#11); let a ← addrEA ea 1; rest a : M Flow) s = rest (addrOf s ea 1) s := by
  rw [beq_iff_eq.2 hr, M_bind_ok (specialWord_run hf), M_bind_ok (addrEA_run ha)]

section

variable {equal out : Bool}

theorem opCmp2_run (hu : untraced s = true) (ht : boundsTest sz xr (addrOf s ea 1) s = .ok (equal, out) s) :
    opCmp2 sz xr rsv ea s = .next (s.finished (2 + ea.extWords sz) (s.compared equal out)) :=
  runInstr_next hu ((boundsAddress_run hf hr ha _).trans (M_bind_ok (boundsFlags_run ht) _))

variable (ht : boundsTest sz xr (addrOf s ea 1) s.flush = .ok (equal, out) s.flush)
include ht

/-- CHK2 flushes the pipeline, then sets the flags that CMP2 sets. -/
theorem boundsFlushing_run (rest : Bool → M Flow) :
    (do
        specialWord (rsv == 0#11)
        let a ← addrEA ea 1
        flushPipeline
        let o ← boundsFlags sz xr a
        rest o : M Flow) s =
      rest out (s.compared equal out).flush :=
  (boundsAddress_run hf hr ha _).trans ((M_bind_ok (flushPipeline_run s) _).trans (M_bind_ok (boundsFlags_run ht) _))

theorem opChk2_inside (hu : untraced s = true) (hout : out = false) :
    opChk2 sz xr rsv ea s = .next (s.finished (2 + ea.extWords sz) (s.compared equal out).flush) := by
  refine runInstr_next hu ((boundsFlushing_run hf hr ha ht _).trans ?_)
  rw [hout]
  rfl

theorem opChk2_outside (hout : out = true) (he : entryReady (s.compared equal out).flush 6#8 true = true) :
    opChk2 sz xr rsv ea s = .next
      ((s.compared equal out).flush.entered 6#8 (s.after (2 + ea.extWords sz)) (some s.ctx.pc) none) := by
  have raises : opChk2 sz xr rsv ea s = raiseExc (2 + ea.extWords sz) s (s.compared equal out).flush .chk := by
    refine runInstr_exc ((boundsFlushing_run hf hr ha ht _).trans ?_)
    rw [hout]
    rfl
  exact raises.trans (takeEntry_run (ipc := some s.ctx.pc) he)

end

/-- Bounds ordered in neither way, both of which can be read (log 15). -/
theorem bounds_refused (hl : readable s (addrOf s ea 1) sz = true)
    (hub : readable s (addrOf s ea 1 + stepOf sz) sz = true)
    (ho : ¬ boundsOrdered (boundSize sz xr) (boundAt s sz xr (addrOf s ea 1))
      (boundAt s sz xr (addrOf s ea 1 + stepOf sz)) = true) :
    opCmp2 sz xr rsv ea s = .refused .unorderedBounds ∧ opChk2 sz xr rsv ea s = .refused .unorderedBounds := by
  have stops : boundsTest sz xr (addrOf s ea 1) s = .error (.refuse .unorderedBounds) s :=
    (boundsTest_run hl hub).trans (if_neg ho)
  have stopsFlushed : boundsTest sz xr (addrOf s ea 1) s.flush = .error (.refuse .unorderedBounds) s.flush :=
    (boundsTest_run (s := s.flush) hl hub).trans (if_neg ho)
  exact ⟨runInstr_refused ((boundsAddress_run hf hr ha _).trans (M_bind_error (boundsFlags_stop stops) _)),
    runInstr_refused ((boundsAddress_run hf hr ha _).trans
      ((M_bind_ok (flushPipeline_run s) _).trans (M_bind_error (boundsFlags_stop stopsFlushed) _)))⟩

/-- Bounds ordered as signed or as unsigned values. -/
theorem bounds_compared (hu : untraced s = true) (hl : readable s (addrOf s ea 1) sz = true)
    (hub : readable s (addrOf s ea 1 + stepOf sz) sz = true)
    (ho : boundsOrdered (boundSize sz xr) (boundAt s sz xr (addrOf s ea 1))
      (boundAt s sz xr (addrOf s ea 1 + stepOf sz)) = true) :
    let m := boundSize sz xr
    let lb := boundAt s sz xr (addrOf s ea 1)
    let ub := boundAt s sz xr (addrOf s ea 1 + stepOf sz)
    let x := s.ctx.getR xr
    let out := boundsOut m x lb ub
    let t := s.compared (boundsEqual m x lb ub) out
    let w := 2 + ea.extWords sz
    opCmp2 sz xr rsv ea s = .next (s.finished w t) ∧
      (out = false → opChk2 sz xr rsv ea s = .next (s.finished w t.flush)) ∧
      (out = true → entryReady t.flush 6#8 true = true →
        opChk2 sz xr rsv ea s = .next (t.flush.entered 6#8 (s.after w) (some s.ctx.pc) none)) := by
  have tested := (boundsTest_run (s := s.flush) (xr := xr) hl hub).trans (if_pos ho)
  exact ⟨opCmp2_run hf hr ha hu ((boundsTest_run hl hub).trans (if_pos ho)), opChk2_inside hf hr ha tested hu,
    opChk2_outside hf hr ha tested⟩

end

/-- Settles O25: the meaning of the test by `boundsOut_iff_unsigned`, `boundsOut_iff_signed` and `boundsEqual_iff`, the
instructions by `reservedBits_refused`, `bounds_refused` and `bounds_compared`. -/
theorem boundsForms : Obligations.BoundsForms := by
  refine ⟨fun sz x lb ub => ⟨fun ho => boundsOut_iff_unsigned ho x, fun ho => boundsOut_iff_signed ho x,
    boundsEqual_iff sz x lb ub⟩, fun s xr rsv ea hu hf => ?_⟩
  simp only [List.forall_mem_cons, List.not_mem_nil, false_implies, implies_true, and_true, ← boundsOrdered_iff]
  refine ⟨?_, ?_, ?_⟩ <;>
    exact ⟨fun hr => ⟨reservedBits_refused hf hr _ _, reservedBits_refused hf hr _ _⟩,
      fun hr ha hl hub => ⟨bounds_refused hf hr ha hl hub, bounds_compared hf hr ha hu hl hub⟩⟩

end Sys2Proof.Machine

/-! ## Multiply and divide (42_multiply_divide.md R251 to R261) -/

namespace Sys2Proof.Machine

/-- A data register holds no condition code. -/
@[simp] theorem State.withD_ccr (s : State) (r : BitVec 3) (sz : Size) (v : Long) :
    (s.withD r sz v).ctx.ccr = s.ctx.ccr := by
  simp only [Ctx.ccr, State.withD_ctx, Ctx.withD_sr]

/-- The register update of an operand's mode draws no free value. -/
@[simp] theorem State.bump_free (s : State) (p : Place) (k : Nat) : (s.bump p).free k = s.free k := by
  simp only [State.free, State.bump_draws]

@[simp] theorem State.bump_freeBit (s : State) (p : Place) (k : Nat) : (s.bump p).freeBit k = s.freeBit k := by
  simp only [State.freeBit, State.bump_draws]

/-! ### Products -/

/-- The unsigned product taken over the integers, as the signed one is. -/
theorem mulLong_unsigned (a b : Long) : mulLong false a b = BitVec.ofInt 64 ((a.toNat : Int) * b.toNat) := by
  rw [← Nat.cast_mul, BitVec.ofInt_natCast]
  rfl

theorem setWidth_ofInt_64 (k : Int) : (BitVec.ofInt 64 k).setWidth 32 = BitVec.ofInt 32 k := by
  apply BitVec.eq_of_toInt_eq
  rw [← BitVec.signExtend_eq_setWidth_of_le _ (by decide), BitVec.toInt_signExtend_eq_toInt_bmod_of_le _ (by decide),
    BitVec.toInt_ofInt, BitVec.toInt_ofInt, Int.bmod_bmod_of_dvd (by decide)]

/-- A value within 64 bits is the sign extension of its low 32 bits exactly where it is within 32 bits. -/
theorem mulOverflows_signed {k : Int} (hlo : -2 ^ 63 ≤ k) (hhi : k < 2 ^ 63) :
    mulOverflows true (BitVec.ofInt 64 k) = decide (k < -2 ^ 31 ∨ 2 ^ 31 ≤ k) := by
  have wide : (BitVec.ofInt 64 k).toInt = k := BitVec.toInt_ofInt_eq_self (by decide) hlo hhi
  have narrow : ((BitVec.ofInt 32 k).signExtend 64).toInt = k.bmod (2 ^ 32) := by
    rw [BitVec.toInt_signExtend_of_le (by decide), BitVec.toInt_ofInt]
  rw [mulOverflows, if_pos rfl, decide_eq_decide, setWidth_ofInt_64, Ne, ← BitVec.toInt_inj, wide, narrow]
  simp only [Int.bmod]
  split <;> omega

/-- A value within 64 bits has a clear upper half exactly where it is within 32 bits. -/
theorem mulOverflows_unsigned {k : Int} (hlo : 0 ≤ k) (hhi : k < 2 ^ 64) :
    mulOverflows false (BitVec.ofInt 64 k) = decide (2 ^ 32 ≤ k) := by
  obtain ⟨m, rfl⟩ := Int.eq_ofNat_of_zero_le hlo
  rw [mulOverflows, if_neg (by decide), decide_eq_decide, BitVec.ofInt_natCast, Ne, ← BitVec.toNat_inj,
    BitVec.extractLsb'_toNat, BitVec.toNat_ofNat, Nat.shiftRight_eq_div_pow]
  simp only [BitVec.toNat_ofNat]
  omega

theorem mulOverflows_mulLong_signed (a b : Long) :
    mulOverflows true (mulLong true a b) = decide (a.toInt * b.toInt < -2 ^ 31 ∨ 2 ^ 31 ≤ a.toInt * b.toInt) := by
  have hlo : -2 ^ (32 * 2 - 2) ≤ a.toInt * b.toInt := BitVec.le_toInt_mul_toInt
  have hhi : a.toInt * b.toInt ≤ 2 ^ (32 * 2 - 2) := BitVec.toInt_mul_toInt_le
  exact mulOverflows_signed (by omega) (by omega)

theorem mulOverflows_mulLong_unsigned (a b : Long) :
    mulOverflows false (mulLong false a b) = decide ((2 : Int) ^ 32 ≤ (a.toNat : Int) * b.toNat) := by
  have hhi : a.toNat * b.toNat < 2 ^ (32 * 2) := BitVec.toNat_mul_toNat_lt
  rw [mulLong_unsigned]
  exact mulOverflows_unsigned (by positivity) (by exact_mod_cast hhi)

/-! ### MULS and MULU -/

/-- A nonzero reserved bit of the special word of a long form is refused before anything else (Q9). -/
theorem longReservedBits_refused {s : State} {r15 : BitVec 1} {rsv : BitVec 7} (hf : fetchable s 0 1 = true)
    (hr : r15 ≠ 0#1 ∨ rsv ≠ 0#7) (words : Nat) (rest : Unit → M Flow) :
    runInstr words (specialWord (r15 == 0#1 && rsv == 0#7) >>= rest) s = .refused .reservedBits := by
  have nonzero : (r15 == 0#1 && rsv == 0#7) = false := by
    rw [Bool.and_eq_false_iff, beq_eq_false_iff_ne, beq_eq_false_iff_ne]
    exact hr
  rw [nonzero]
  exact runInstr_refused (M_bind_error (specialWord_stop hf) _)

section

variable {s : State} {src : EA}

theorem opMulW_run (hu : untraced s = true) (hs : sourceReady s src .w 0 = true) (signed : Bool) (r : BitVec 3) :
    opMulW signed r src s =
      let p := placeOf s src .w 0
      let v := mulWord signed (valueAt s .w p.loc) (s.ctx.getD r)
      .next (s.finished (1 + src.extWords .w) (((s.bump p).withD r .l v).withCcr (logicFlags .l v s.ctx.ccr))) := by
  refine runInstr_next hu ?_
  rw [M_bind_ok (readEA_run hs), M_bind_ok (getD_run _ _), M_bind_ok (setD_run _ _ _ _),
    M_bind_ok (setLogicFlags_run _ _ _), State.bump_getD, State.withD_ccr, State.bump_ccr]
  rfl

section

variable {l h : BitVec 3} (hf : fetchable s 0 1 = true) (signed : Bool)
include hf

/-- U9 where the advice to refuse is followed (log 14). -/
theorem opMulL_sameRegister_refused (hh : h = l) (hp : s.params.undefined = .refuse) :
    opMulL signed 0#1 l true 0#7 h src s = .refused .productRegister := by
  refine runInstr_refused (t := s) ((M_bind_ok (specialWord_run hf) _).trans ?_)
  rw [if_pos (by rw [hh]; simp)]
  refine M_bind_error ?_ _
  rw [refuseUndefined_run, if_pos hp]

variable (hu : untraced s = true) (hs : sourceReady s src .l 1 = true)
include hu hs

theorem opMulL_long :
    opMulL signed 0#1 l false 0#7 h src s =
      let p := placeOf s src .l 1
      let v := mulLong signed (valueAt s .l p.loc) (s.ctx.getD l)
      let lo := v.setWidth 32
      .next (s.finished (2 + src.extWords .l) (((s.bump p).withD l .l lo).withCcr
        { s.ctx.ccr with n := lo.getLsbD 31, z := lo == 0#32, v := mulOverflows signed v, c := false })) := by
  refine runInstr_next hu ((M_bind_ok (specialWord_run hf) _).trans ?_)
  refine (M_bind_ok (readEA_run hs) _).trans ?_
  rw [M_bind_ok (getD_run _ _), M_bind_ok (getCcr_run _), State.bump_getD, State.bump_ccr]
  rfl

theorem opMulL_quad (hh : h ≠ l) :
    opMulL signed 0#1 l true 0#7 h src s =
      let p := placeOf s src .l 1
      let v := mulLong signed (valueAt s .l p.loc) (s.ctx.getD l)
      .next (s.finished (2 + src.extWords .l)
        ((((s.bump p).withD h .l (v.extractLsb' 32 32)).withD l .l (v.setWidth 32)).withCcr
          { s.ctx.ccr with n := v.getLsbD 63, z := v == 0#64, v := false, c := false })) := by
  refine runInstr_next hu ((M_bind_ok (specialWord_run hf) _).trans ?_)
  rw [if_neg (by simpa using hh)]
  refine (M_bind_ok (readEA_run hs) _).trans ?_
  rw [M_bind_ok (getD_run _ _), M_bind_ok (getCcr_run _), State.bump_getD, State.bump_ccr,
    if_neg (by decide), if_neg hh]
  rfl

/-- U9 where the advice to refuse is not followed (log 14). -/
theorem opMulL_sameRegister_free (hh : h = l) (hp : s.params.undefined = .free) :
    opMulL signed 0#1 l true 0#7 h src s =
      .next (s.finished (2 + src.extWords .l) ((((s.bump (placeOf s src .l 1)).drew 4).withD l .l (s.free 0)).withCcr
        { s.ctx.ccr with n := s.freeBit 1, z := s.freeBit 2, v := s.freeBit 3, c := false })) := by
  have free : refuseUndefined .productRegister s = .ok () s := by
    rw [refuseUndefined_run, if_neg (by rw [hp]; decide)]
  refine runInstr_next hu ((M_bind_ok (specialWord_run hf) _).trans ?_)
  rw [if_pos (by rw [hh]; simp)]
  refine (M_bind_ok free _).trans ((M_bind_ok (readEA_run hs) _).trans ?_)
  rw [M_bind_ok (getD_run _ _), M_bind_ok (getCcr_run _), State.bump_ccr, if_neg (by decide), if_pos hh]
  simp only [← State.bump_free s (placeOf s src .l 1), ← State.bump_freeBit s (placeOf s src .l 1)]
  rfl

end

end

/-- Settles O39: each form by its equation above, the product of the long forms as an integer. -/
theorem multiplyForms : Obligations.MultiplyForms := by
  refine ⟨fun s r l h src hu => ⟨?_, ?_⟩, fun s r15 l h q rsv src hf hr =>
    ⟨longReservedBits_refused hf hr _ _, longReservedBits_refused hf hr _ _⟩⟩
  · simp only [List.forall_mem_cons, List.not_mem_nil, false_implies, implies_true, and_true]
    exact ⟨fun hs => opMulW_run hu hs true r, fun hs => opMulW_run hu hs false r⟩
  · simp only [List.forall_mem_cons, List.not_mem_nil, false_implies, implies_true, and_true,
      ← setWidth_ofInt_64, ← mulOverflows_mulLong_signed, ← mulOverflows_mulLong_unsigned, ← mulLong_unsigned]
    exact ⟨fun hf hs => ⟨opMulL_long hf true hu hs, opMulL_quad hf true hu hs,
        opMulL_sameRegister_refused hf true, opMulL_sameRegister_free hf true hu hs⟩,
      fun hf hs => ⟨opMulL_long hf false hu hs, opMulL_quad hf false hu hs,
        opMulL_sameRegister_refused hf false, opMulL_sameRegister_free hf false hu hs⟩⟩

/-! ### Quotients (R256) -/

/-- The quotient and the remainder of a division that truncates toward zero. -/
structure IsQuotient (dd dv q rem : Int) : Prop where
  eq : dd = q * dv + rem
  small : rem.natAbs < dv.natAbs
  sign : 0 ≤ rem * dd

section

variable {dd dv q rem : Int}

theorem IsQuotient.divisor_ne_zero (h : IsQuotient dd dv q rem) : dv ≠ 0 := by
  rintro rfl
  exact absurd h.small (by simp)

/-- There is one such pair, the one the model computes. -/
theorem IsQuotient.unique (h : IsQuotient dd dv q rem) : dd.tdiv dv = q ∧ dd.tmod dv = rem := by
  have hne := h.divisor_ne_zero
  obtain ⟨heq, hsmall, hsign⟩ := h
  rcases lt_trichotomy dd 0 with neg | zero | pos
  · rw [Int.tdiv_tmod_unique' neg.le hne]
    have hrem : rem ≤ 0 := nonpos_of_mul_nonneg_left hsign neg
    exact ⟨by rw [heq]; ring, by omega, hrem⟩
  · have hdvd : dv ∣ rem := ⟨-q, by linarith⟩
    have hrem : rem = 0 := Int.eq_zero_of_dvd_of_natAbs_lt_natAbs hdvd hsmall
    have hq : q = 0 := by simpa [zero, hrem, hne] using heq
    simp [zero, hrem, hq]
  · rw [Int.tdiv_tmod_unique pos.le hne]
    have hrem : 0 ≤ rem := nonneg_of_mul_nonneg_left hsign pos
    exact ⟨by rw [heq]; ring, hrem, by omega⟩

/-- The least quotient that fits in `n` bits, and the least above it that does not (R257, R258, R260, R261). -/
def quotRange (signed : Bool) (n : Nat) : Int × Int := if signed then (-2 ^ (n - 1), 2 ^ (n - 1)) else (0, 2 ^ n)

/-- The quotient of unsigned values is not negative. -/
theorem quotFits_iff {signed : Bool} (n : Nat) (h : IsQuotient dd dv q rem)
    (hpos : signed = false → 0 ≤ dd ∧ 0 ≤ dv) :
    quotFits signed n q = true ↔ (quotRange signed n).1 ≤ q ∧ q < (quotRange signed n).2 := by
  cases signed with
  | true => exact decide_eq_true_iff.trans (and_congr_right' Int.le_sub_one_iff)
  | false =>
    obtain ⟨hdd, hdv⟩ := hpos rfl
    have nonneg : 0 ≤ q := h.unique.1 ▸ Int.tdiv_nonneg hdd hdv
    exact (decide_eq_true_iff.trans Int.le_sub_one_iff).trans (and_iff_right nonneg).symm

/-! ### The divide -/

theorem divFailFlags_run (v : Bool) (s : State) :
    divFailFlags v s =
      .ok () ((s.drew 2).withCcr { s.ctx.ccr with n := s.freeBit 0, z := s.freeBit 1, v := v, c := false }) := rfl

section

variable {signed : Bool} {n : Nat} {store : Int → Int → M Unit} {s t : State}

theorem divide_zero (h : dv = 0) :
    divide signed n dd dv store s = .error (.exc .zeroDivide) ((s.drew 3).withCcr
      { s.ctx.ccr with n := s.freeBit 1, z := s.freeBit 2, v := s.freeBit 0, c := false }) := by
  rw [divide, if_pos h]
  rfl

variable (h : IsQuotient dd dv q rem)
include h

theorem divide_fits (hq : quotFits signed n q = true) (hstore : store q rem s = .ok () t) :
    divide signed n dd dv store s = .ok () (t.withCcr
      { t.ctx.ccr with n := quotNegative n q, z := decide (q = 0), v := false, c := false }) := by
  obtain ⟨hdiv, hmod⟩ := h.unique
  rw [divide, if_neg h.divisor_ne_zero, hdiv, hmod, if_pos hq, M_bind_ok hstore]
  rfl

theorem divide_overflows (hq : ¬ quotFits signed n q = true) :
    divide signed n dd dv store s =
      .ok () ((s.drew 2).withCcr { s.ctx.ccr with n := s.freeBit 0, z := s.freeBit 1, v := true, c := false }) := by
  obtain ⟨hdiv, hmod⟩ := h.unique
  rw [divide, if_neg h.divisor_ne_zero, hdiv, hmod, if_neg hq, divFailFlags_run]

end

/-! ### DIVS and DIVU -/

/-- The outcome `o` of a divide of `dd` by `dv` that began in `s`, has read its operand in `t` and has `words` words:
the quotient fits in `n` bits and leaves `stored`, or it overflows, or the divisor is zero. -/
def EndsDivided (signed : Bool) (n : Nat) (s t : State) (words : Nat) (dd dv : Int) (stored : Int → Int → State)
    (o : Step) : Prop :=
  (∀ q rem : Int, dd = q * dv + rem → rem.natAbs < dv.natAbs → 0 ≤ rem * dd →
    ((quotRange signed n).1 ≤ q → q < (quotRange signed n).2 → o = .next (s.finished words ((stored q rem).withCcr
      { s.ctx.ccr with n := quotNegative n q, z := decide (q = 0), v := false, c := false }))) ∧
    (¬ ((quotRange signed n).1 ≤ q ∧ q < (quotRange signed n).2) → o = .next (s.finished words ((t.drew 2).withCcr
      { s.ctx.ccr with n := s.freeBit 0, z := s.freeBit 1, v := true, c := false })))) ∧
  (dv = 0 →
    let u := (t.drew 3).withCcr { s.ctx.ccr with n := s.freeBit 1, z := s.freeBit 2, v := s.freeBit 0, c := false }
    entryReady u s.params.vec.zeroDivide true = true →
    o = .next (u.entered s.params.vec.zeroDivide (s.after words) (some s.ctx.pc) none))

/-- A computation that reads its operand and then divides, with a store that leaves the condition codes. -/
theorem endsDivided_run {signed : Bool} {n words : Nat} {store : Int → Int → M Unit} {stored : Int → Int → State}
    {s : State} {p : Place} {body : M Flow} (hu : untraced s = true)
    (hbody : body s = (divide signed n dd dv store >>= fun _ => pure .next) (s.bump p))
    (hstore : ∀ q rem, store q rem (s.bump p) = .ok () (stored q rem))
    (hccr : ∀ q rem, (stored q rem).ctx.ccr = s.ctx.ccr) (hpos : signed = false → 0 ≤ dd ∧ 0 ≤ dv) :
    EndsDivided signed n s (s.bump p) words dd dv stored (runInstr words body s) := by
  refine ⟨fun q rem heq hsmall hsign => ?_, fun hzero => ?_⟩
  · have quotient : IsQuotient dd dv q rem := ⟨heq, hsmall, hsign⟩
    rw [← quotFits_iff n quotient hpos]
    refine ⟨fun hlo hhi => runInstr_next hu ?_, fun hout => runInstr_next hu ?_⟩
    · have fits := (quotFits_iff n quotient hpos).2 ⟨hlo, hhi⟩
      rw [hbody, M_bind_ok (divide_fits quotient fits (hstore q rem)), hccr]
      rfl
    · rw [hbody, M_bind_ok (divide_overflows quotient hout), State.bump_ccr, State.bump_freeBit, State.bump_freeBit]
      rfl
  · intro u he
    have raises : runInstr words body s = raiseExc words s u .zeroDivide := by
      refine runInstr_exc ?_
      rw [hbody, M_bind_error (divide_zero hzero), State.bump_ccr]
      simp only [State.bump_freeBit]
      rfl
    exact raises.trans (takeEntry_run (ipc := some s.ctx.pc) he)

end

/-- A word or long word as the integer a divide takes it for. -/
def divOperand (signed : Bool) (sz : Size) (v : Long) : Int := if signed then signedOf sz v else unsignedOf sz v

theorem divOperand_nonneg (sz : Size) (v : Long) : 0 ≤ divOperand false sz v := Int.natCast_nonneg _

theorem longDividend_nonneg (quad : Bool) (hi lo : Long) : 0 ≤ longDividend false quad hi lo := by
  cases quad <;> exact Int.natCast_nonneg _

theorem opDivW_divided {s : State} {src : EA} (hu : untraced s = true) (hs : sourceReady s src .w 0 = true)
    (signed : Bool) (r : BitVec 3) :
    let p := placeOf s src .w 0
    EndsDivided signed 16 s (s.bump p) (1 + src.extWords .w) (divOperand signed .l (s.ctx.getD r))
      (divOperand signed .w (valueAt s .w p.loc))
      (fun q rem => (s.bump p).withD r .l (BitVec.ofInt 16 rem ++ BitVec.ofInt 16 q)) (opDivW signed r src s) := by
  refine endsDivided_run (store := fun q rem => setD r .l (BitVec.ofInt 16 rem ++ BitVec.ofInt 16 q)) hu ?_
    (fun _ _ => rfl) (fun _ _ => ?_) ?_
  · rw [M_bind_ok (readEA_run hs), M_bind_ok (getD_run _ _), State.bump_getD]
    rfl
  · rw [State.withD_ccr, State.bump_ccr]
  · rintro rfl
    exact ⟨divOperand_nonneg _ _, divOperand_nonneg _ _⟩

/-- Settles O40: both forms by `opDivW_divided`. -/
theorem divideWordForms : Obligations.DivideWordForms := by
  intro s r src hu
  simp only [List.forall_mem_cons, List.not_mem_nil, false_implies, implies_true, and_true]
  exact ⟨fun hs => opDivW_divided hu hs true r, fun hs => opDivW_divided hu hs false r⟩

section

variable {s : State} {src : EA} {q r : BitVec 3} (hf : fetchable s 0 1 = true) (signed : Bool)
include hf

/-- The 64-bit dividend in one register (Q8). -/
theorem opDivL_sameRegister_refused (hr : r = q) :
    opDivL signed 0#1 q true 0#7 r src s = .refused .divQuadSameRegister := by
  refine runInstr_refused (t := s) ((M_bind_ok (specialWord_run hf) _).trans ?_)
  rw [if_pos (by rw [hr]; simp)]
  rfl

theorem opDivL_divided (hu : untraced s = true) (hs : sourceReady s src .l 1 = true) (quad : Bool)
    (hr : quad = true → r ≠ q) :
    let p := placeOf s src .l 1
    EndsDivided signed 32 s (s.bump p) (2 + src.extWords .l)
      (longDividend signed quad (s.ctx.getD r) (s.ctx.getD q)) (divOperand signed .l (valueAt s .l p.loc))
      (fun quo rem =>
        (if r = q then s.bump p else (s.bump p).withD r .l (BitVec.ofInt 32 rem)).withD q .l (BitVec.ofInt 32 quo))
      (opDivL signed 0#1 q quad 0#7 r src s) := by
  have distinct : ¬ (quad && r == q) = true := by simpa using hr
  refine endsDivided_run
    (store := fun quo rem => do
      if r = q then pure () else setD r .l (BitVec.ofInt 32 rem)
      setD q .l (BitVec.ofInt 32 quo)) hu ?_ (fun _ _ => ?_) (fun _ _ => ?_) ?_
  · refine (M_bind_ok (specialWord_run hf) _).trans ?_
    rw [if_neg distinct]
    refine (M_bind_ok (readEA_run hs) _).trans ?_
    rw [M_bind_ok (getD_run _ _), M_bind_ok (getD_run _ _), State.bump_getD, State.bump_getD]
    rfl
  · split <;> rfl
  · rw [State.withD_ccr]
    split
    · rw [State.bump_ccr]
    · rw [State.withD_ccr, State.bump_ccr]
  · rintro rfl
    exact ⟨longDividend_nonneg _ _ _, divOperand_nonneg _ _⟩

end

/-- Settles O41: the forms by `opDivL_divided`, the refusals by their own equations above. -/
theorem divideLongForms : Obligations.DivideLongForms := by
  refine ⟨fun s q r src hu hf => ?_, fun s r15 q r quad rsv src hf hr =>
    ⟨longReservedBits_refused hf hr _ _, longReservedBits_refused hf hr _ _⟩⟩
  simp only [List.forall_mem_cons, List.not_mem_nil, false_implies, implies_true, and_true]
  exact ⟨⟨opDivL_sameRegister_refused hf true, fun hs => opDivL_divided hf true hu hs⟩,
    ⟨opDivL_sameRegister_refused hf false, fun hs => opDivL_divided hf false hu hs⟩⟩

end Sys2Proof.Machine

/-! ## Shifts and rotates (44_shift_rotate.md R291 to R302) -/

namespace Sys2Proof.Machine

/-! ### The instructions (R291 to R293) -/

/-- The count in an instruction, 0 being 8. -/
theorem quickData_toNat (q : BitVec 3) : (quickData q).toNat = if q = 0#3 then 8 else q.toNat := by
  rw [quickData, apply_ite BitVec.toNat, BitVec.toNat_setWidth_of_le (by decide)]
  rfl

theorem opShiftReg_run {s : State} (hu : untraced s = true) (c r : BitVec 3) (byReg : Bool) (k : Shift) (sz : Size) :
    opShiftReg k sz c byReg r s =
      let count : Nat := if byReg then (s.ctx.getD c).toNat % 64 else if c = 0#3 then 8 else c.toNat
      let out := shiftBy k sz count (trunc sz (s.ctx.getD r)) s.ctx.ccr
      .next (s.finished 1 ((s.withD r sz out.1).withCcr out.2)) := by
  have operand : modifyReady s (.dn r) sz 0 = true := rfl
  refine runInstr_next hu ?_
  rw [M_bind_ok (getD_run _ _), M_bind_ok (modifyEAFlagsFirst_run operand), BitVec.toNat_setWidth, quickData_toNat]
  rfl

theorem opShiftMem_run {s : State} {dst : EA} (hu : untraced s = true) (hm : modifyReady s dst .w 0 = true)
    (k : Shift) :
    opShiftMem k dst s =
      let p := placeOf s dst .w 0
      let out := shiftBy k .w 1 (valueAt s .w p.loc) s.ctx.ccr
      .next (s.finished (1 + dst.extWords .w) (((s.storeAt .w out.1 p.loc).bump p).withCcr out.2)) := by
  refine runInstr_next hu ?_
  rw [M_bind_ok (modifyEAFlagsFirst_run hm)]
  rfl

/-- Settles O34: the forms by `opShiftReg_run` and `opShiftMem_run`. -/
theorem shiftForms : Obligations.ShiftForms := by
  intro s c r byReg dst hu
  have reg := opShiftReg_run hu c r byReg
  have mem := fun k (hm : modifyReady s dst .w 0 = true) => opShiftMem_run hu hm k
  simp only [List.forall_mem_cons, List.not_mem_nil, false_implies, implies_true, and_true]
  exact ⟨⟨reg .asl .b, reg .asl .w, reg .asl .l, reg .asr .b, reg .asr .w, reg .asr .l,
      reg .lsl .b, reg .lsl .w, reg .lsl .l, reg .lsr .b, reg .lsr .w, reg .lsr .l,
      reg .rol .b, reg .rol .w, reg .rol .l, reg .ror .b, reg .ror .w, reg .ror .l,
      reg .roxl .b, reg .roxl .w, reg .roxl .l, reg .roxr .b, reg .roxr .w, reg .roxr .l⟩,
    mem .asl, mem .asr, mem .lsl, mem .lsr, mem .rol, mem .ror, mem .roxl, mem .roxr⟩

/-! ### The bits of one turn (R295 to R302)

An operand of size n is a `Long` whose bits from n on are clear. -/

theorem bits_le (sz : Size) : sz.bits ≤ 32 := by cases sz <;> decide

theorem bits_pos (sz : Size) : 0 < sz.bits := by cases sz <;> decide

/-- The bits of the low part of a value. -/
@[simp] theorem getLsbD_trunc (sz : Size) (v : Long) (i : Nat) :
    (trunc sz v).getLsbD i = (decide (i < sz.bits) && v.getLsbD i) := by
  rcases lt_or_ge i 32 with h | h
  · exact trunc_getLsbD sz v h
  · rw [BitVec.getLsbD_of_ge _ _ h, BitVec.getLsbD_of_ge _ _ h, Bool.and_false]

theorem trunc_toNat (sz : Size) (v : Long) : (trunc sz v).toNat = v.toNat % 2 ^ sz.bits := by
  rw [← BitVec.toNat_setWidth, ← unsignedOf_eq_toNat, unsignedOf]

theorem msb_trunc (sz : Size) (v : Long) : msb sz (trunc sz v) = msb sz v := by
  simp [msb, bits_pos]

theorem trunc_eq_self_iff {sz : Size} {v : Long} : trunc sz v = v ↔ ∀ i, sz.bits ≤ i → v.getLsbD i = false := by
  constructor
  · intro h i hi
    rw [← h, getLsbD_trunc, decide_eq_false hi.not_gt, Bool.false_and]
  · intro h
    refine BitVec.eq_of_getLsbD_eq fun i _ => ?_
    rw [getLsbD_trunc]
    rcases lt_or_ge i sz.bits with hi | hi
    · simp [hi]
    · simp [h i hi]

/-- The bits of a single bit taken as a long word. -/
theorem getLsbD_setWidth_ofBool (b : Bool) (i : Nat) :
    ((BitVec.ofBool b).setWidth 32 : Long).getLsbD i = (decide (i = 0) && b) := by
  cases i <;> simp

theorem getLsbD_shiftInLow (sz : Size) (v : Long) (b : Bool) (i : Nat) :
    (shiftInLow sz v b).getLsbD i = (decide (i < sz.bits) && if i = 0 then b else v.getLsbD (i - 1)) := by
  have hle := bits_le sz
  have hpos := bits_pos sz
  rw [shiftInLow, BitVec.getLsbD_or, getLsbD_trunc, BitVec.getLsbD_shiftLeft, getLsbD_setWidth_ofBool]
  cases i with
  | zero => simp [hpos]
  | succ i =>
    rcases lt_or_ge (i + 1) sz.bits with h | h
    · simp [h, h.trans_le hle]
    · simp [h.not_gt]

theorem getLsbD_shiftInHigh {sz : Size} {v : Long} (hv : trunc sz v = v) (b : Bool) (i : Nat) :
    (shiftInHigh sz v b).getLsbD i = if i = sz.bits - 1 then b else v.getLsbD (i + 1) := by
  have clear : sz.bits ≤ i + 1 → v.getLsbD (i + 1) = false := trunc_eq_self_iff.1 hv _
  have hle := bits_le sz
  have hpos := bits_pos sz
  rw [shiftInHigh, BitVec.getLsbD_or, BitVec.getLsbD_ushiftRight, BitVec.getLsbD_shiftLeft, getLsbD_setWidth_ofBool,
    Nat.add_comm 1 i]
  rcases lt_trichotomy i (sz.bits - 1) with h | h | h
  · simp [h, h.ne]
  · have inside : sz.bits - 1 < 32 := by omega
    rw [clear (by omega), h]
    simp [inside]
  · rw [clear (by omega)]
    simp [h.ne', Nat.sub_ne_zero_of_lt h]

/-- The bit that goes in stands at the top. -/
theorem msb_shiftInHigh {sz : Size} {v : Long} (hv : trunc sz v = v) (b : Bool) : msb sz (shiftInHigh sz v b) = b := by
  rw [msb, getLsbD_shiftInHigh hv, if_pos rfl]

theorem shiftInLow_fits (sz : Size) (v : Long) (b : Bool) : trunc sz (shiftInLow sz v b) = shiftInLow sz v b := by
  refine trunc_eq_self_iff.2 fun i hi => ?_
  rw [getLsbD_shiftInLow, decide_eq_false hi.not_gt, Bool.false_and]

theorem shiftInHigh_fits {sz : Size} {v : Long} (hv : trunc sz v = v) (b : Bool) :
    trunc sz (shiftInHigh sz v b) = shiftInHigh sz v b := by
  refine trunc_eq_self_iff.2 fun i hi => ?_
  have hpos := bits_pos sz
  rw [getLsbD_shiftInHigh hv, if_neg (by omega), trunc_eq_self_iff.1 hv _ (by omega)]

theorem shiftStep_fits {sz : Size} {v : Long} (hv : trunc sz v = v) (k : Shift) (x : Bool) :
    trunc sz (shiftStep k sz v x).1 = (shiftStep k sz v x).1 := by
  cases k with
  | asl | lsl | rol | roxl => exact shiftInLow_fits sz v _
  | asr | lsr | ror | roxr => exact shiftInHigh_fits hv _

/-! ### The turns of the loop (R294) -/

/-- What the loop of R294 has after `n` turns on `v`; a ROX begins with C as X. -/
def shiftAfter (k : Shift) (sz : Size) (v : Long) (f : Ccr) (n : Nat) : ShiftAcc :=
  shiftLoop k sz n
    { val := v, x := f.x, v := false,
      c := match k with
        | .roxl | .roxr => f.x
        | _ => false }

/-- The flags beside the value are those of the last turn, N and Z those of the value. -/
theorem shiftBy_eq (k : Shift) (sz : Size) (n : Nat) (v : Long) (f : Ccr) :
    shiftBy k sz n v f =
      let t := shiftAfter k sz v f n
      (t.val, { x := t.x, n := msb sz t.val, z := decide (t.val = 0#32), v := t.v, c := t.c }) := by
  cases k <;> rfl

/-- N and Z are those of the result. -/
theorem shiftBy_n_z (k : Shift) (sz : Size) (n : Nat) (v : Long) (f : Ccr) :
    (shiftBy k sz n v f).2.n = msb sz (shiftBy k sz n v f).1 ∧
      ((shiftBy k sz n v f).2.z = true ↔ (shiftBy k sz n v f).1 = 0#32) :=
  ⟨rfl, decide_eq_true_iff⟩

theorem shiftAfter_zero_c {k : Shift} (hk : k ≠ .roxl ∧ k ≠ .roxr) (sz : Size) (v : Long) (f : Ccr) :
    (shiftAfter k sz v f 0).c = false := by
  cases k with
  | roxl | roxr => simp at hk
  | _ => rfl

theorem shiftLoop_succ (k : Shift) (sz : Size) (n : Nat) (t : ShiftAcc) :
    shiftLoop k sz (n + 1) t = shiftOnce k sz (shiftLoop k sz n t) := by
  induction n generalizing t with
  | zero => rfl
  | succ n ih => exact ih (shiftOnce k sz t)

/-- Only ASL sets V. -/
theorem shiftOnce_v {k : Shift} (hk : k ≠ .asl) (sz : Size) (t : ShiftAcc) : (shiftOnce k sz t).v = false := by
  cases k with
  | asl => contradiction
  | _ => rfl

/-- All but ROL and ROR set X as C. -/
theorem shiftOnce_x {k : Shift} (hk : k ≠ .rol ∧ k ≠ .ror) (sz : Size) (t : ShiftAcc) :
    (shiftOnce k sz t).x = (shiftOnce k sz t).c := by
  cases k with
  | rol | ror => simp at hk
  | _ => rfl

section

variable {k : Shift} {sz : Size} {v : Long} (f : Ccr) (n : Nat)

theorem shiftAfter_succ : shiftAfter k sz v f (n + 1) = shiftOnce k sz (shiftAfter k sz v f n) :=
  shiftLoop_succ k sz n _

theorem shiftAfter_succ_val :
    (shiftAfter k sz v f (n + 1)).val = (shiftStep k sz (shiftAfter k sz v f n).val (shiftAfter k sz v f n).x).1 :=
  congrArg ShiftAcc.val (shiftAfter_succ f n)

/-- C is the bit that the last turn shifts out. -/
theorem shiftAfter_succ_c :
    (shiftAfter k sz v f (n + 1)).c = (shiftStep k sz (shiftAfter k sz v f n).val (shiftAfter k sz v f n).x).2 :=
  congrArg ShiftAcc.c (shiftAfter_succ f n)

theorem shiftAfter_fits (hv : trunc sz v = v) : trunc sz (shiftAfter k sz v f n).val = (shiftAfter k sz v f n).val := by
  induction n with
  | zero => exact hv
  | succ n ih => rw [shiftAfter_succ_val, shiftStep_fits ih]

theorem shiftAfter_v (hk : k ≠ .asl) : (shiftAfter k sz v f n).v = false := by
  cases n with
  | zero => rfl
  | succ n => rw [shiftAfter_succ, shiftOnce_v hk]

theorem shiftAfter_x (hk : k ≠ .rol ∧ k ≠ .ror) :
    (shiftAfter k sz v f n).x = if n = 0 then f.x else (shiftAfter k sz v f n).c := by
  cases n with
  | zero => rfl
  | succ n => rw [shiftAfter_succ, shiftOnce_x hk, if_neg n.succ_ne_zero]

end

/-! ### The left shifts (R295, R297) -/

theorem shiftStep_left {k : Shift} (hk : k = .asl ∨ k = .lsl) (sz : Size) (u : Long) (x : Bool) :
    shiftStep k sz u x = (shiftInLow sz u false, msb sz u) := by
  rcases hk with rfl | rfl <;> rfl

theorem shiftInLow_trunc (sz : Size) (u : Long) : shiftInLow sz (trunc sz u) false = trunc sz (u <<< 1) := by
  refine BitVec.eq_of_getLsbD_eq fun i hi => ?_
  rw [getLsbD_shiftInLow, getLsbD_trunc, getLsbD_trunc, BitVec.getLsbD_shiftLeft]
  by_cases h : i < sz.bits
  · have below : i - 1 < sz.bits := by omega
    simp [h, hi, below]
  · simp [h]

/-- The top bit after `n` places to the left. -/
theorem msb_shiftLeft (sz : Size) (v : Long) (n : Nat) :
    msb sz (v <<< n) = (decide (n < sz.bits) && v.getLsbD (sz.bits - 1 - n)) := by
  have hpos := bits_pos sz
  have inside : sz.bits - 1 < 32 := by have := bits_le sz; omega
  have place : sz.bits - 1 < n ↔ ¬ n < sz.bits := by omega
  simp only [msb, BitVec.getLsbD_shiftLeft, inside, place, decide_true, decide_not, Bool.not_not, Bool.true_and]

/-- In a sequence, the first value other than `c` comes with a change. -/
theorem exists_ne_or_change_iff {α : Type} (b : Nat → α) (c : α) (n : Nat) :
    (∃ j ≤ n, b j ≠ c) ∨ b (n + 1) ≠ b n ↔ ∃ j ≤ n + 1, b j ≠ c := by
  by_cases earlier : ∃ j ≤ n, b j ≠ c
  · obtain ⟨j, hj, hne⟩ := earlier
    exact iff_of_true (.inl ⟨j, hj, hne⟩) ⟨j, hj.trans n.le_succ, hne⟩
  · have last : b n = c := by_contra fun h => earlier ⟨n, le_rfl, h⟩
    simp only [earlier, false_or, last]
    refine ⟨fun h => ⟨n + 1, le_rfl, h⟩, fun ⟨j, hj, hne⟩ => ?_⟩
    rcases Nat.le_succ_iff.1 hj with hj | rfl
    · exact absurd ⟨j, hj, hne⟩ earlier
    · exact hne

theorem trunc_shiftLeft_toNat (sz : Size) (v : Long) (n : Nat) :
    (trunc sz (v <<< n)).toNat = (v.toNat * 2 ^ n) % 2 ^ sz.bits := by
  rw [trunc_toNat, BitVec.toNat_shiftLeft, Nat.shiftLeft_eq, Nat.mod_mod_of_dvd _ (pow_dvd_pow 2 (bits_le sz))]

section

variable {sz : Size} {v : Long} (hv : trunc sz v = v) (f : Ccr) (n : Nat)
include hv

section

variable {k : Shift} (hk : k = .asl ∨ k = .lsl)
include hk

theorem shiftAfter_left : (shiftAfter k sz v f n).val = trunc sz (v <<< n) := by
  induction n with
  | zero => rw [BitVec.shiftLeft_zero, hv]; rfl
  | succ n ih => rw [shiftAfter_succ_val, shiftStep_left hk, ih, shiftInLow_trunc, BitVec.shiftLeft_add]

theorem shiftAfter_left_c :
    (shiftAfter k sz v f n).c = (decide (0 < n ∧ n ≤ sz.bits) && v.getLsbD (sz.bits - n)) := by
  cases n with
  | zero => exact shiftAfter_zero_c (by rcases hk with rfl | rfl <;> decide) sz v f
  | succ n =>
    rw [shiftAfter_succ_c, shiftStep_left hk, shiftAfter_left hv f n hk, msb_trunc, msb_shiftLeft, Nat.sub_sub,
      Nat.add_comm 1 n]
    simp

end

/-- V of ASL collects the changes of the top bit. -/
theorem shiftAfter_asl_v_iff_changed :
    (shiftAfter .asl sz v f n).v = true ↔ ∃ j ≤ n, msb sz (v <<< j) ≠ msb sz v := by
  induction n with
  | zero => simp [shiftAfter, shiftLoop]
  | succ n ih =>
    have turn : (shiftAfter .asl sz v f (n + 1)).v =
        ((shiftAfter .asl sz v f n).v || msb sz (v <<< (n + 1)) != msb sz (v <<< n)) := by
      rw [← msb_trunc sz (v <<< (n + 1)), ← msb_trunc sz (v <<< n), ← shiftAfter_left hv f _ (.inl rfl),
        ← shiftAfter_left hv f _ (.inl rfl), shiftAfter_succ]
      rfl
    rw [turn, Bool.or_eq_true, ih, bne_iff_ne]
    exact exists_ne_or_change_iff (fun j => msb sz (v <<< j)) _ n

/-- Once every bit has gone through the top, it changed unless all are clear. -/
theorem exists_msb_changed_iff (hn : sz.bits ≤ n) : (∃ j ≤ n, msb sz (v <<< j) ≠ msb sz v) ↔ v ≠ 0#32 := by
  refine ⟨?_, fun nonzero => ?_⟩
  · rintro ⟨j, -, changed⟩ rfl
    simp at changed
  · by_contra never
    push Not at never
    have topClear : msb sz v = false := by rw [← never _ hn, msb_shiftLeft]; simp
    refine nonzero (BitVec.eq_of_getLsbD_eq fun i _ => ?_)
    rw [BitVec.getLsbD_zero]
    rcases lt_or_ge i sz.bits with inside | outside
    · have same := never (sz.bits - 1 - i) (by omega)
      rwa [msb_shiftLeft, topClear, decide_eq_true (by omega), Bool.true_and,
        Nat.sub_sub_self (by omega)] at same
    · exact trunc_eq_self_iff.1 hv i outside

theorem shiftAfter_asl_v :
    (shiftAfter .asl sz v f n).v = true ↔
      if n < sz.bits then ∃ j, j ≤ n ∧ v.getLsbD (sz.bits - 1 - j) ≠ msb sz v else v ≠ 0#32 := by
  rw [shiftAfter_asl_v_iff_changed hv]
  split
  · next h =>
    refine exists_congr fun j => and_congr_right fun hj => ?_
    rw [msb_shiftLeft, decide_eq_true (hj.trans_lt h), Bool.true_and]
  · next h => exact exists_msb_changed_iff hv n (not_lt.1 h)

end

/-! ### The right shifts (R296, R298) -/

theorem shiftAfter_lsr (sz : Size) (v : Long) (f : Ccr) (n : Nat) : (shiftAfter .lsr sz v f n).val = v >>> n := by
  induction n with
  | zero => exact (BitVec.ushiftRight_zero v).symm
  | succ n ih =>
    rw [shiftAfter_succ_val, ih, BitVec.shiftRight_add]
    simp [shiftStep, shiftInHigh]

section

variable {sz : Size} {v : Long} (hv : trunc sz v = v) (f : Ccr) (n : Nat)

theorem shiftAfter_lsr_toNat : (shiftAfter .lsr sz v f n).val.toNat = v.toNat / 2 ^ n := by
  rw [shiftAfter_lsr, BitVec.toNat_ushiftRight, Nat.shiftRight_eq_div_pow]

include hv

theorem shiftAfter_lsr_c :
    (shiftAfter .lsr sz v f n).c = (decide (0 < n ∧ n ≤ sz.bits) && v.getLsbD (n - 1)) := by
  cases n with
  | zero => rfl
  | succ n =>
    have out : (shiftAfter .lsr sz v f (n + 1)).c = v.getLsbD n := by
      rw [shiftAfter_succ_c, shiftAfter_lsr]
      simp [shiftStep]
    rw [out, Nat.add_sub_cancel]
    rcases lt_or_ge n sz.bits with h | h
    · simp [h]
    · rw [trunc_eq_self_iff.1 hv n h, Bool.and_false]

/-- ASR moves the bits down under copies of the top bit. -/
theorem shiftAfter_asr_getLsbD {i : Nat} (hi : i < sz.bits) :
    (shiftAfter .asr sz v f n).val.getLsbD i = v.getLsbD (min (i + n) (sz.bits - 1)) := by
  induction n generalizing i with
  | zero => rw [Nat.add_zero, Nat.min_eq_left (by omega)]; rfl
  | succ n ih =>
    rw [shiftAfter_succ_val, shiftStep, getLsbD_shiftInHigh (shiftAfter_fits f n hv)]
    split
    · next top =>
      rw [msb, ih (by omega)]
      congr 1
      omega
    · rw [ih (by omega), Nat.add_right_comm, Nat.add_assoc]

theorem shiftAfter_asr_setWidth :
    (shiftAfter .asr sz v f n).val.setWidth sz.bits = (v.setWidth sz.bits).sshiftRight n := by
  have hpos := bits_pos sz
  refine BitVec.eq_of_getLsbD_eq fun i hi => ?_
  rw [BitVec.getLsbD_setWidth, BitVec.getLsbD_sshiftRight, shiftAfter_asr_getLsbD hv f n hi, ← msb_eq_msb_setWidth,
    BitVec.getLsbD_setWidth]
  split
  · next h =>
    rw [Nat.min_eq_left (by omega), Nat.add_comm n i]
    simp [hi, Nat.add_comm n i ▸ h]
  · next h =>
    rw [Nat.min_eq_right (by omega)]
    simp [hi, msb]

theorem shiftAfter_asr_signedOf : signedOf sz (shiftAfter .asr sz v f n).val = signedOf sz v / 2 ^ n := by
  rw [signedOf_eq_toInt, signedOf_eq_toInt, shiftAfter_asr_setWidth hv, BitVec.toInt_sshiftRight,
    Int.shiftRight_eq_div_pow]
  norm_cast

theorem shiftAfter_asr_c :
    (shiftAfter .asr sz v f n).c = (decide (0 < n) && v.getLsbD (min (n - 1) (sz.bits - 1))) := by
  cases n with
  | zero => rfl
  | succ n =>
    rw [shiftAfter_succ_c, shiftStep, shiftAfter_asr_getLsbD hv f n (bits_pos sz)]
    simp

end

/-- Settles O23: the values, C and V by the lemmas above, X by `shiftAfter_x`. -/
theorem shiftClosedForms : Obligations.ShiftClosedForms := by
  intro sz v n f hv _
  have left := fun (k : Shift) (hk : k = .asl ∨ k = .lsl) => And.intro
    ((congrArg BitVec.toNat (shiftAfter_left hv f n hk)).trans (trunc_shiftLeft_toNat sz v n))
    (shiftAfter_left_c hv f n hk)
  have noV := fun (k : Shift) (hk : k ≠ .asl) => shiftAfter_v (sz := sz) (v := v) f n hk
  have x := fun (k : Shift) (hk : k ≠ .rol ∧ k ≠ .ror) => shiftAfter_x (sz := sz) (v := v) f n hk
  have nz := fun k => shiftBy_n_z k sz n v f
  simp only [List.forall_mem_cons, List.not_mem_nil, false_implies, implies_true, and_true, shiftBy_eq] at nz ⊢
  exact ⟨⟨left .asl (.inl rfl), left .lsl (.inr rfl)⟩, shiftAfter_lsr_toNat f n, shiftAfter_lsr_c hv f n,
    shiftAfter_asr_signedOf hv f n, shiftAfter_fits f n hv, shiftAfter_asr_c hv f n, shiftAfter_asl_v hv f n,
    ⟨noV .lsl (by decide), noV .lsr (by decide), noV .asr (by decide)⟩,
    ⟨x .asl (by decide), nz .asl⟩, ⟨x .lsl (by decide), nz .lsl⟩, ⟨x .lsr (by decide), nz .lsr⟩,
    ⟨x .asr (by decide), nz .asr⟩⟩

/-! ### The rotates (R299 to R302)

A rotate moves the bits of a ring one place each turn: the bits of the operand, and for ROXL and ROXR X above them. -/

/-- Places that move up by one in a ring of `m` each turn have moved up by `n` after `n` turns. -/
theorem ring_up {α : Type} {m : Nat} {b : Nat → Nat → α} (turn : ∀ n, ∀ i < m, b (n + 1) ((i + 1) % m) = b n i)
    (n : Nat) {i : Nat} (hi : i < m) : b n ((i + n) % m) = b 0 i := by
  induction n with
  | zero => rw [Nat.add_zero, Nat.mod_eq_of_lt hi]
  | succ n ih => rw [← ih, ← turn n _ (Nat.mod_lt _ (by omega)), Nat.mod_add_mod, Nat.add_assoc]

/-- In a ring whose places move down by one each turn, a place holds after `n` turns what began `n` above it. -/
theorem ring_down {α : Type} {m : Nat} {b : Nat → Nat → α} (turn : ∀ n, ∀ i < m, b (n + 1) i = b n ((i + 1) % m))
    (n : Nat) {i : Nat} (hi : i < m) : b n i = b 0 ((i + n) % m) := by
  induction n generalizing i with
  | zero => rw [Nat.add_zero, Nat.mod_eq_of_lt hi]
  | succ n ih =>
    rw [turn n i hi, ih (Nat.mod_lt _ (by omega)), Nat.mod_add_mod, Nat.add_assoc, Nat.add_comm 1 n]

/-- The next place in a ring. -/
theorem succ_mod_eq_ite {i m : Nat} (hi : i < m) : (i + 1) % m = if i + 1 = m then 0 else i + 1 := by
  split
  · next h => rw [h, Nat.mod_self]
  · exact Nat.mod_eq_of_lt (by omega)

/-- The ring of ROXL and ROXR: the bits of the operand and X above them. -/
def ringWithX (sz : Size) (u : Long) (x : Bool) (i : Nat) : Bool := if i = sz.bits then x else u.getLsbD i

section

variable {sz : Size} {u : Long} {i : Nat}

theorem rol_turn (hi : i < sz.bits) : (shiftInLow sz u (msb sz u)).getLsbD ((i + 1) % sz.bits) = u.getLsbD i := by
  rw [succ_mod_eq_ite hi, getLsbD_shiftInLow]
  split
  · next top => simp [msb, ← top]
  · next below =>
    have inside : i + 1 < sz.bits := by omega
    simp [inside]

theorem ror_turn (hu : trunc sz u = u) (hi : i < sz.bits) :
    (shiftInHigh sz u (u.getLsbD 0)).getLsbD i = u.getLsbD ((i + 1) % sz.bits) := by
  have top : i = sz.bits - 1 ↔ i + 1 = sz.bits := by omega
  rw [succ_mod_eq_ite hi, getLsbD_shiftInHigh hu, apply_ite u.getLsbD]
  simp only [top]

theorem roxl_turn (x : Bool) (hi : i < sz.bits + 1) :
    ringWithX sz (shiftInLow sz u x) (msb sz u) ((i + 1) % (sz.bits + 1)) = ringWithX sz u x i := by
  have hpos := bits_pos sz
  rw [succ_mod_eq_ite hi, ringWithX, ringWithX, getLsbD_shiftInLow]
  rcases lt_trichotomy (i + 1) sz.bits with inside | top | above
  · have below : i < sz.bits := by omega
    simp [inside, inside.ne, below.ne]
  · simp [msb, ← top]
  · have atX : i = sz.bits := by omega
    simp [atX, hpos, hpos.ne]

theorem roxr_turn (hu : trunc sz u = u) (x : Bool) (hi : i < sz.bits + 1) :
    ringWithX sz (shiftInHigh sz u x) (u.getLsbD 0) i = ringWithX sz u x ((i + 1) % (sz.bits + 1)) := by
  have hpos := bits_pos sz
  rw [succ_mod_eq_ite hi, ringWithX, ringWithX, getLsbD_shiftInHigh hu]
  rcases lt_trichotomy (i + 1) sz.bits with inside | top | above
  · have below : i < sz.bits - 1 := by omega
    simp [inside.ne, below.ne, (below.trans_le (Nat.sub_le _ 1)).ne]
  · simp [← top]
  · have atX : i = sz.bits := by omega
    simp [atX, hpos.ne]

end

section

variable {sz : Size} {v : Long} (f : Ccr) (n : Nat)

theorem shiftAfter_rol_getLsbD {i : Nat} (hi : i < sz.bits) :
    (shiftAfter .rol sz v f n).val.getLsbD ((i + n) % sz.bits) = v.getLsbD i :=
  ring_up (b := fun n i => (shiftAfter .rol sz v f n).val.getLsbD i)
    (fun n i hi => by rw [shiftAfter_succ_val]; exact rol_turn hi) n hi

theorem shiftAfter_roxl_ring {i : Nat} (hi : i < sz.bits + 1) :
    ringWithX sz (shiftAfter .roxl sz v f n).val (shiftAfter .roxl sz v f n).x ((i + n) % (sz.bits + 1)) =
      ringWithX sz v f.x i :=
  ring_up (b := fun n i => ringWithX sz (shiftAfter .roxl sz v f n).val (shiftAfter .roxl sz v f n).x i)
    (fun n i hi => by rw [shiftAfter_succ]; exact roxl_turn _ hi) n hi

theorem shiftAfter_rotate_x {k : Shift} (hk : k = .rol ∨ k = .ror) : (shiftAfter k sz v f n).x = f.x := by
  induction n with
  | zero => rfl
  | succ n ih =>
    rw [shiftAfter_succ, ← ih]
    rcases hk with rfl | rfl <;> rfl

theorem shiftAfter_rox_c {k : Shift} (hk : k = .roxl ∨ k = .roxr) :
    (shiftAfter k sz v f n).c = (shiftAfter k sz v f n).x := by
  cases n with
  | zero => rcases hk with rfl | rfl <;> rfl
  | succ n =>
    rw [shiftAfter_succ, shiftOnce_x]
    rcases hk with rfl | rfl <;> decide

/-- The bit that ROL takes out at the top goes in at the low end. -/
theorem shiftAfter_rol_c :
    (shiftAfter .rol sz v f n).c = (decide (0 < n) && (shiftAfter .rol sz v f n).val.getLsbD 0) := by
  cases n with
  | zero => rfl
  | succ n =>
    rw [shiftAfter_succ_c, shiftAfter_succ_val, shiftStep, getLsbD_shiftInLow]
    simp [bits_pos]

variable (hv : trunc sz v = v)
include hv

theorem shiftAfter_ror_getLsbD {i : Nat} (hi : i < sz.bits) :
    (shiftAfter .ror sz v f n).val.getLsbD i = v.getLsbD ((i + n) % sz.bits) :=
  ring_down (b := fun n i => (shiftAfter .ror sz v f n).val.getLsbD i)
    (fun n i hi => by rw [shiftAfter_succ_val]; exact ror_turn (shiftAfter_fits f n hv) hi) n hi

theorem shiftAfter_roxr_ring {i : Nat} (hi : i < sz.bits + 1) :
    ringWithX sz (shiftAfter .roxr sz v f n).val (shiftAfter .roxr sz v f n).x i =
      ringWithX sz v f.x ((i + n) % (sz.bits + 1)) :=
  ring_down (b := fun n i => ringWithX sz (shiftAfter .roxr sz v f n).val (shiftAfter .roxr sz v f n).x i)
    (fun n i hi => by rw [shiftAfter_succ]; exact roxr_turn (shiftAfter_fits f n hv) _ hi) n hi

/-- The bit that ROR takes out at the low end goes in at the top. -/
theorem shiftAfter_ror_c :
    (shiftAfter .ror sz v f n).c = (decide (0 < n) && msb sz (shiftAfter .ror sz v f n).val) := by
  cases n with
  | zero => rfl
  | succ n =>
    rw [shiftAfter_succ_c, shiftAfter_succ_val, shiftStep, msb_shiftInHigh (shiftAfter_fits f n hv)]
    simp

end

/-- Settles O24: the rings by `ring_up` and `ring_down`, C and X by the lemmas above. -/
theorem rotateClosedForms : Obligations.RotateClosedForms := by
  intro sz v n f hv
  have fits := fun k => shiftAfter_fits (k := k) f n hv
  have noV := fun (k : Shift) (hk : k ≠ .asl) => shiftAfter_v (sz := sz) (v := v) f n hk
  have nz := fun k => shiftBy_n_z k sz n v f
  simp only [List.forall_mem_cons, List.not_mem_nil, false_implies, implies_true, and_true, shiftBy_eq] at nz ⊢
  exact ⟨fun i hi => ⟨shiftAfter_rol_getLsbD f n hi, shiftAfter_ror_getLsbD f n hv hi⟩,
    fun i hi => ⟨shiftAfter_roxl_ring f n (Nat.lt_succ_of_le hi), shiftAfter_roxr_ring f n hv (Nat.lt_succ_of_le hi)⟩,
    shiftAfter_rotate_x f n (.inl rfl), shiftAfter_rotate_x f n (.inr rfl), shiftAfter_rol_c f n,
    shiftAfter_ror_c f n hv, shiftAfter_rox_c f n (.inl rfl), shiftAfter_rox_c f n (.inr rfl),
    ⟨fits .rol, noV .rol (by decide), nz .rol⟩, ⟨fits .ror, noV .ror (by decide), nz .ror⟩,
    ⟨fits .roxl, noV .roxl (by decide), nz .roxl⟩, ⟨fits .roxr, noV .roxr (by decide), nz .roxr⟩⟩

end Sys2Proof.Machine

/-! ## Bit operations (45_bit_manipulation.md R321 to R327) -/

namespace Sys2Proof.Machine

/-! ### One bit of a value (R322) -/

/-- `v` with its bit `i` replaced by `b`. -/
def withBit (v : Long) (i : Nat) (b : Bool) : Long :=
  BitVec.ofFnLE fun j : Fin 32 => if j.val = i then b else v.getLsbD j

/-- The operation `g` puts `change` of the numbered bit in that bit's place and leaves every other bit. -/
def ChangesBit (g : Long → Nat → Long) (change : Bool → Bool) : Prop :=
  ∀ v i, g v i = withBit v i (change (v.getLsbD i))

theorem getLsbD_withBit (v : Long) (i : Nat) (b : Bool) {j : Nat} (hj : j < 32) :
    (withBit v i b).getLsbD j = if j = i then b else v.getLsbD j := by
  rw [withBit, BitVec.getLsbD_eq_getElem hj, BitVec.getElem_ofFnLE]

/-- It is enough to compare the 32 bits. -/
theorem changesBit_of_getLsbD {g : Long → Nat → Long} {change : Bool → Bool}
    (h : ∀ v i, ∀ j < 32, (g v i).getLsbD j = if j = i then change (v.getLsbD i) else v.getLsbD j) :
    ChangesBit g change := fun v i =>
  BitVec.eq_of_getLsbD_eq fun j hj => by rw [h v i j hj, getLsbD_withBit v i _ hj]

/-- The mask of a bit operation has its one bit at the bit number. -/
theorem getLsbD_bitMask (i : Nat) {j : Nat} (hj : j < 32) : (1#32 <<< i).getLsbD j = decide (j = i) := by
  rw [← BitVec.twoPow_eq, BitVec.getLsbD_eq_getElem hj, BitVec.getElem_twoPow]

/-- BCHG inverts (R324). -/
theorem bitChange_changesBit : ChangesBit bitChange fun b => !b := by
  refine changesBit_of_getLsbD fun v i j hj => ?_
  rw [bitChange, BitVec.getLsbD_xor, getLsbD_bitMask i hj]
  by_cases h : j = i <;> simp [h]

/-- BCLR clears (R325). -/
theorem bitClear_changesBit : ChangesBit bitClear fun _ => false := by
  refine changesBit_of_getLsbD fun v i j hj => ?_
  rw [bitClear, BitVec.getLsbD_and, BitVec.getLsbD_not, getLsbD_bitMask i hj]
  by_cases h : j = i <;> simp [h, hj]

/-- BSET sets (R326). -/
theorem bitSet_changesBit : ChangesBit bitSet fun _ => true := by
  refine changesBit_of_getLsbD fun v i j hj => ?_
  rw [bitSet, BitVec.getLsbD_or, getLsbD_bitMask i hj]
  by_cases h : j = i <;> simp [h]

/-! ### The instructions (R321, R323 to R327) -/

/-- What BCHG, BCLR or BSET of bit number `n` leaves before the pc moves on. The operand's extension begins at word
`k`; `change` is what the instruction does to the bit. -/
def State.bitModified (s : State) (ea : EA) (k n : Nat) (change : Bool → Bool) : State :=
  let sz := bitSize ea
  let p := placeOf s ea sz k
  let v := valueAt s sz p.loc
  let i := n % sz.bits
  ((s.storeAt sz (withBit v i (change (v.getLsbD i))) p.loc).bump p).withCcr { s.ctx.ccr with z := !v.getLsbD i }

/-- The same for BTST. -/
def State.bitTested (s : State) (ea : EA) (k n : Nat) : State :=
  let sz := bitSize ea
  let p := placeOf s ea sz k
  (s.bump p).withCcr { s.ctx.ccr with z := !(valueAt s sz p.loc).getLsbD (n % sz.bits) }

section

variable {s : State} {ea : EA} {k : Nat} {g : Long → Nat → Long} {change : Bool → Bool}

theorem bitModify_run (hg : ChangesBit g change) (hm : modifyReady s ea (bitSize ea) k = true) (num : Long) :
    bitModify g num ea k s = .ok () (s.bitModified ea k num.toNat change) := by
  rw [bitModify, modifyEAFlagsFirst_run hm]
  simp only [hg _ _]
  rfl

theorem bitTest_run (hs : sourceReady s ea (bitSize ea) k = true) (num : Long) :
    bitTest num ea k s = .ok () (s.bitTested ea k num.toNat) := by
  rw [bitTest, M_bind_ok (readEA_run hs), M_bind_ok (getCcr_run _), setCcr_run, State.bump_ccr]
  rfl

variable (hu : untraced s = true)
include hu

theorem opBitStatic_run (hg : ChangesBit g change) (hf : fetchable s 0 1 = true)
    (hm : modifyReady s ea (bitSize ea) 1 = true) (num : Byte) :
    opBitStatic g num ea s = .next (s.finished (2 + ea.extWords .b) (s.bitModified ea 1 num.toNat change)) := by
  refine runInstr_next hu ?_
  rw [M_bind_ok (touchExt_run hf), M_bind_ok (bitModify_run hg hm _), BitVec.toNat_setWidth_of_le (by decide)]
  rfl

theorem opBitDynamic_run (hg : ChangesBit g change) (hm : modifyReady s ea (bitSize ea) 0 = true) (r : BitVec 3) :
    opBitDynamic g r ea s =
      .next (s.finished (1 + ea.extWords .b) (s.bitModified ea 0 (s.ctx.getD r).toNat change)) := by
  refine runInstr_next hu ?_
  rw [M_bind_ok (getD_run _ _), M_bind_ok (bitModify_run hg hm _)]
  rfl

theorem opBtstStatic_run (hf : fetchable s 0 1 = true) (hs : sourceReady s ea (bitSize ea) 1 = true) (num : Byte) :
    opBtstStatic num ea s = .next (s.finished (2 + ea.extWords .b) (s.bitTested ea 1 num.toNat)) := by
  refine runInstr_next hu ?_
  rw [M_bind_ok (touchExt_run hf), M_bind_ok (bitTest_run hs _), BitVec.toNat_setWidth_of_le (by decide)]
  rfl

theorem opBtstDynamic_run (hs : sourceReady s ea (bitSize ea) 0 = true) (r : BitVec 3) :
    opBtstDynamic r ea s = .next (s.finished (1 + ea.extWords .b) (s.bitTested ea 0 (s.ctx.getD r).toNat)) := by
  refine runInstr_next hu ?_
  rw [M_bind_ok (getD_run _ _), M_bind_ok (bitTest_run hs _)]
  rfl

theorem opTas_run (hm : modifyReady s ea .b 0 = true) :
    opTas ea s =
      let p := placeOf s ea .b 0
      let v := valueAt s .b p.loc
      .next (s.finished (1 + ea.extWords .b)
        (((s.storeAt .b (v ||| 0x80#32) p.loc).bump p).withCcr (logicFlags .b v s.ctx.ccr))) := by
  refine runInstr_next hu ?_
  rw [M_bind_ok (modifyEAFlagsFirst_run hm)]
  rfl

end

/-- Settles O42: the forms by their equations above, what each does to the bit by `ChangesBit`. -/
theorem bitForms : Obligations.BitForms := by
  intro s num r ea hu sz after
  have size : sz = bitSize ea := rfl
  have modified : ∀ words k n change,
      after words k n (some change) = s.finished words (s.bitModified ea k n change) := fun _ _ _ _ => rfl
  have tested : ∀ words k n, after words k n none = s.finished words (s.bitTested ea k n) := fun _ _ _ => rfl
  simp only [List.forall_mem_cons, List.not_mem_nil, false_implies, implies_true, and_true, size, modified, tested]
  have static := fun {g change} (hg : ChangesBit g change) hf (hm : modifyReady s ea (bitSize ea) 1 = true) =>
    opBitStatic_run hu hg hf hm num
  have dynamic := fun {g change} (hg : ChangesBit g change) (hm : modifyReady s ea (bitSize ea) 0 = true) =>
    opBitDynamic_run hu hg hm r
  exact ⟨⟨⟨static bitChange_changesBit, dynamic bitChange_changesBit⟩,
      ⟨static bitClear_changesBit, dynamic bitClear_changesBit⟩, static bitSet_changesBit, dynamic bitSet_changesBit⟩,
    fun hf hs => opBtstStatic_run hu hf hs num, fun hs => opBtstDynamic_run hu hs r, opTas_run hu⟩

end Sys2Proof.Machine

/-! ## Packed decimal (46_bcd.md R340 to R345) -/

namespace Sys2Proof.Machine

/-! ### The byte and the number it holds (R340) -/

/-- Both nibbles of a byte are digits. -/
def digitsOf (v : Long) : Bool := decide ((v.extractLsb' 4 4).toNat ≤ 9 ∧ (v.extractLsb' 0 4).toNat ≤ 9)

/-- The number of a packed decimal byte, as an integer. -/
def decimalValue (v : Long) : Int := 10 * (v.extractLsb' 4 4).toNat + (v.extractLsb' 0 4).toNat

/-- The packed decimal byte of an integer modulo 100. -/
def decimalByte (k : Int) : Long := BitVec.ofInt 32 (k % 100 / 10 * 16 + k % 10)

theorem bcdValid_eq (v : Long) : bcdValid v = digitsOf v := (Bool.decide_and _ _).symm

theorem bcdDec_eq (v : Long) : (bcdDec v : Int) = decimalValue v := by
  simp only [bcdDec, decimalValue, Nat.cast_add, Nat.cast_mul, Nat.cast_ofNat]

theorem bcdEnc_eq (k : Int) : bcdEnc (k % 100).toNat = decimalByte k := by
  rw [bcdEnc, decimalByte, ← BitVec.ofInt_natCast]
  congr 1
  omega

/-- ABCD's byte and carry over the integers (R341). -/
theorem bcdSum_eq (v d : Long) (x : Bool) :
    bcdSum v d x =
      let k := decimalValue v + decimalValue d + x.toNat
      (decimalByte k, decide (99 < k)) := by
  simp only [bcdSum, ← bcdEnc_eq, ← bcdDec_eq]
  refine Prod.ext (congrArg bcdEnc ?_) (decide_eq_decide.2 ?_) <;> omega

/-- SBCD's and NBCD's byte and borrow over the integers (R342, R343). -/
theorem bcdDiff_eq (v d : Long) (x : Bool) :
    bcdDiff v d x =
      let k := decimalValue d - decimalValue v - x.toNat
      (decimalByte k, decide (k < 0)) := by
  simp only [bcdDiff, bcdEnc_eq, bcdDec_eq]

/-- The digits are below 10, so the byte is at most 0x99. -/
theorem trunc_decimalByte (k : Int) : trunc .b (decimalByte k) = decimalByte k := by
  have hlo : 0 ≤ k % 100 / 10 * 16 + k % 10 := by omega
  have hhi : k % 100 / 10 * 16 + k % 10 < 256 := by omega
  refine BitVec.eq_of_toNat_eq ?_
  rw [trunc_toNat, decimalByte, BitVec.toNat_ofInt, Int.emod_eq_of_lt hlo (hhi.trans (by decide))]
  exact Nat.mod_eq_of_lt (by rw [Size.bits]; omega)

theorem trunc_trunc (sz : Size) (v : Long) : trunc sz (trunc sz v) = trunc sz v :=
  BitVec.eq_of_toNat_eq (by rw [trunc_toNat, trunc_toNat, Nat.mod_mod])

/-! ### The computation and its draws (R344, R345) -/

/-- The condition codes of a decimal operation with result byte `v` and carry `c`; N and V are free values number `i`
and `i + 1`. -/
def State.decimalFlags (s : State) (f : Ccr) (i : Nat) (v : Long) (c : Bool) : Ccr :=
  { x := c, n := s.freeBit i, z := v == 0#32 && f.z, v := s.freeBit (i + 1), c := c }

@[simp] theorem State.bump_decimalFlags (s : State) (p : Place) (f : Ccr) (i : Nat) (v : Long) (c : Bool) :
    (s.bump p).decimalFlags f i v c = s.decimalFlags f i v c := by
  simp only [State.decimalFlags, State.bump_freeBit]

theorem bcdFlags_eq {v : Long} (hv : trunc .b v = v) (s : State) (f : Ccr) (i : Nat) (c : Bool) :
    bcdFlags v c (s.freeBit i) (s.freeBit (i + 1)) f = s.decimalFlags f i v c := by
  rw [bcdFlags, hv]
  rfl

/-- What ABCD and SBCD share: a result and a carry, drawn where an operand is no decimal, then the flags. -/
def decimalOp (valid : Bool) (r : Long × Bool) (f : Ccr) : M (Long × Ccr) := do
  let r ← if valid then pure r else drawBcd
  let n ← drawBit
  let v ← drawBit
  return (r.1, bcdFlags r.1 r.2 n v f)

theorem bcdAdd_eq (v d : Long) (f : Ccr) :
    bcdAdd v d f = decimalOp (bcdValid v && bcdValid d) (bcdSum v d f.x) f := rfl

theorem bcdSub_eq (v d : Long) (f : Ccr) :
    bcdSub v d f = decimalOp (bcdValid v && bcdValid d) (bcdDiff v d f.x) f := rfl

theorem decimalOp_valid {r : Long × Bool} (hr : trunc .b r.1 = r.1) (f : Ccr) (s : State) :
    decimalOp true r f s = .ok (r.1, s.decimalFlags f 0 r.1 r.2) (s.drew 2) :=
  congrArg (fun c => EStateM.Result.ok (r.1, c) (s.drew 2)) (bcdFlags_eq hr s f 0 r.2)

theorem decimalOp_invalid (r : Long × Bool) (f : Ccr) (s : State) :
    decimalOp false r f s =
      let res := trunc .b (s.free 0)
      .ok (res, s.decimalFlags f 2 res (s.freeBit 1)) (s.drew 4) :=
  congrArg (fun c => EStateM.Result.ok (trunc .b (s.free 0), c) (s.drew 4))
    (bcdFlags_eq (trunc_trunc .b (s.free 0)) s f 2 (s.freeBit 1))

/-- The computation `op` is decimal: on digits it gives the byte of `total`, with `carry` of it, and draws N and V; on
other operands it draws the byte, the carry, N and V. -/
structure IsDecimal (op : Long → Long → Ccr → M (Long × Ccr)) (total : Long → Long → Bool → Int)
    (carry : Int → Bool) : Prop where
  onDigits : ∀ {v d} f s, digitsOf v = true → digitsOf d = true →
    let k := total v d f.x
    op v d f s = .ok (decimalByte k, s.decimalFlags f 0 (decimalByte k) (carry k)) (s.drew 2)
  onOthers : ∀ {v d} f s, ¬ (digitsOf v = true ∧ digitsOf d = true) →
    let res := trunc .b (s.free 0)
    op v d f s = .ok (res, s.decimalFlags f 2 res (s.freeBit 1)) (s.drew 4)

/-- A computation that is `decimalOp` of the byte and the carry of `total` is decimal. -/
theorem isDecimal_of_decimalOp {op : Long → Long → Ccr → M (Long × Ccr)} {total : Long → Long → Bool → Int}
    {carry : Int → Bool}
    (h : ∀ v d f, op v d f =
      decimalOp (digitsOf v && digitsOf d) (decimalByte (total v d f.x), carry (total v d f.x)) f) :
    IsDecimal op total carry where
  onDigits f s hv hd := by
    rw [h, hv, hd]
    exact decimalOp_valid (trunc_decimalByte _) f s
  onOthers f s hn := by
    rw [← Bool.and_eq_true, Bool.not_eq_true] at hn
    rw [h, hn]
    exact decimalOp_invalid _ f s

/-- ABCD adds (R341). -/
theorem isDecimal_bcdAdd :
    IsDecimal bcdAdd (fun v d x => decimalValue v + decimalValue d + x.toNat) fun k => decide (99 < k) :=
  isDecimal_of_decimalOp fun v d f => by rw [bcdAdd_eq, bcdSum_eq, bcdValid_eq, bcdValid_eq]

/-- SBCD subtracts (R342). -/
theorem isDecimal_bcdSub :
    IsDecimal bcdSub (fun v d x => decimalValue d - decimalValue v - x.toNat) fun k => decide (k < 0) :=
  isDecimal_of_decimalOp fun v d f => by rw [bcdSub_eq, bcdDiff_eq, bcdValid_eq, bcdValid_eq]

/-! ### The instructions (R341 to R343)

Each by a computation that answers `(v, c)` and draws `n` free values. -/

section

variable {s : State} {x y : BitVec 3} {sz : Size} {op : Long → Long → Ccr → M (Long × Ccr)} {v : Long} {c : Ccr}
  {n : Nat} (hu : untraced s = true)
include hu

theorem opExtended_registers_drawing
    (hop : op (trunc sz (s.ctx.getD y)) (trunc sz (s.ctx.getD x)) s.ctx.ccr s = .ok (v, c) (s.drew n)) :
    opExtended op sz x false y s = .next (s.finished 1 (((s.drew n).withD x sz v).withCcr c)) := by
  have source : sourceReady s (.dn y) sz 0 = true := rfl
  have destination : modifyReady s (.dn x) sz 0 = true := rfl
  refine runInstr_next hu ((M_bind_ok (readEA_run source) _).trans ?_)
  exact M_bind_ok (modifyEA_run destination hop rfl) _

theorem opExtended_memory_drawing (hs : sourceReady s (.predec y) sz 0 = true)
    (hm : modifyReady (s.bump (placeOf s (.predec y) sz 0)) (.predec x) sz 0 = true)
    (hop :
      let p := placeOf s (.predec y) sz 0
      let t := s.bump p
      let q := placeOf t (.predec x) sz 0
      op (valueAt s sz p.loc) (valueAt t sz q.loc) s.ctx.ccr t = .ok (v, c) (t.drew n)) :
    opExtended op sz x true y s =
      let p := placeOf s (.predec y) sz 0
      let t := s.bump p
      let q := placeOf t (.predec x) sz 0
      .next (s.finished 1 ((((t.drew n).storeAt sz v q.loc).bump q).withCcr c)) := by
  simp only [← State.bump_ccr s (placeOf s (.predec y) sz 0)] at hop
  refine runInstr_next hu ((M_bind_ok (readEA_run hs) _).trans ?_)
  exact M_bind_ok (modifyEA_run hm hop rfl) _

theorem opNbcd_drawing {dst : EA} (hm : modifyReady s dst .b 0 = true)
    (hop : bcdSub (valueAt s .b (placeOf s dst .b 0).loc) 0#32 s.ctx.ccr s = .ok (v, c) (s.drew n)) :
    opNbcd dst s =
      let p := placeOf s dst .b 0
      .next (s.finished (1 + dst.extWords .b) ((((s.drew n).storeAt .b v p.loc).bump p).withCcr c)) :=
  runInstr_next hu (M_bind_ok (modifyEA_run (f := fun d f => bcdSub d 0#32 f) hm hop rfl) _)

end

/-! ### On digits and on other operands -/

section

variable {s : State} {op : Long → Long → Ccr → M (Long × Ccr)} {total : Long → Long → Bool → Int} {carry : Int → Bool}

/-- Both forms on digits. -/
theorem IsDecimal.opExtended_onDigits (h : IsDecimal op total carry) (hu : untraced s = true) (x y : BitVec 3) :
    (let v := trunc .b (s.ctx.getD y)
     let d := trunc .b (s.ctx.getD x)
     let k := total v d s.ctx.ccr.x
     digitsOf v = true → digitsOf d = true →
     opExtended op .b x false y s = .next (s.finished 1 (((s.drew 2).withD x .b (decimalByte k)).withCcr
       (s.decimalFlags s.ctx.ccr 0 (decimalByte k) (carry k))))) ∧
    (let p := placeOf s (.predec y) .b 0
     let t := s.bump p
     let q := placeOf t (.predec x) .b 0
     let k := total (valueAt s .b p.loc) (valueAt t .b q.loc) s.ctx.ccr.x
     sourceReady s (.predec y) .b 0 = true → modifyReady t (.predec x) .b 0 = true →
     digitsOf (valueAt s .b p.loc) = true → digitsOf (valueAt t .b q.loc) = true →
     opExtended op .b x true y s = .next (s.finished 1 ((((t.drew 2).storeAt .b (decimalByte k) q.loc).bump q).withCcr
       (s.decimalFlags s.ctx.ccr 0 (decimalByte k) (carry k))))) := by
  refine ⟨fun hv hd => opExtended_registers_drawing hu (h.onDigits _ _ hv hd), fun hs hm hv hd => ?_⟩
  have run := h.onDigits s.ctx.ccr (s.bump (placeOf s (.predec y) .b 0)) hv hd
  simp only [State.bump_decimalFlags] at run
  exact opExtended_memory_drawing hu hs hm run

theorem IsDecimal.opExtended_registers_onOthers (h : IsDecimal op total carry) (hu : untraced s = true)
    {x y : BitVec 3}
    (hn : ¬ (digitsOf (trunc .b (s.ctx.getD y)) = true ∧ digitsOf (trunc .b (s.ctx.getD x)) = true)) :
    opExtended op .b x false y s =
      let res := trunc .b (s.free 0)
      .next (s.finished 1 (((s.drew 4).withD x .b res).withCcr (s.decimalFlags s.ctx.ccr 2 res (s.freeBit 1)))) :=
  opExtended_registers_drawing hu (h.onOthers _ _ hn)

theorem IsDecimal.opExtended_memory_onOthers (h : IsDecimal op total carry) (hu : untraced s = true) {x y : BitVec 3}
    (hs : sourceReady s (.predec y) .b 0 = true)
    (hm : modifyReady (s.bump (placeOf s (.predec y) .b 0)) (.predec x) .b 0 = true)
    (hn :
      let p := placeOf s (.predec y) .b 0
      let t := s.bump p
      ¬ (digitsOf (valueAt s .b p.loc) = true ∧ digitsOf (valueAt t .b (placeOf t (.predec x) .b 0).loc) = true)) :
    opExtended op .b x true y s =
      let t := s.bump (placeOf s (.predec y) .b 0)
      let q := placeOf t (.predec x) .b 0
      let res := trunc .b (s.free 0)
      .next (s.finished 1 ((((t.drew 4).storeAt .b res q.loc).bump q).withCcr
        (s.decimalFlags s.ctx.ccr 2 res (s.freeBit 1)))) := by
  have run := h.onOthers s.ctx.ccr (s.bump (placeOf s (.predec y) .b 0)) hn
  simp only [State.bump_decimalFlags, State.bump_free, State.bump_freeBit] at run
  exact opExtended_memory_drawing hu hs hm run

end

section

variable {s : State} {dst : EA} (hu : untraced s = true) (hm : modifyReady s dst .b 0 = true)
include hu hm

/-- NBCD subtracts from the byte 0, whose nibbles are digits (R343). -/
theorem opNbcd_onDigits (hd : digitsOf (valueAt s .b (placeOf s dst .b 0).loc) = true) :
    opNbcd dst s =
      let p := placeOf s dst .b 0
      let k := decimalValue 0#32 - decimalValue (valueAt s .b p.loc) - s.ctx.ccr.x.toNat
      .next (s.finished (1 + dst.extWords .b) ((((s.drew 2).storeAt .b (decimalByte k) p.loc).bump p).withCcr
        (s.decimalFlags s.ctx.ccr 0 (decimalByte k) (decide (k < 0))))) :=
  opNbcd_drawing hu hm (isDecimal_bcdSub.onDigits _ _ hd rfl)

theorem opNbcd_onOthers (hd : digitsOf (valueAt s .b (placeOf s dst .b 0).loc) = false) :
    opNbcd dst s =
      let p := placeOf s dst .b 0
      let res := trunc .b (s.free 0)
      .next (s.finished (1 + dst.extWords .b) ((((s.drew 4).storeAt .b res p.loc).bump p).withCcr
        (s.decimalFlags s.ctx.ccr 2 res (s.freeBit 1)))) :=
  opNbcd_drawing hu hm (isDecimal_bcdSub.onOthers _ _ fun ⟨hv, _⟩ => Bool.false_ne_true (hd.symm.trans hv))

end

/-- Settles O33: ABCD and SBCD by `IsDecimal`, NBCD by its equations above. -/
theorem decimalForms : Obligations.DecimalForms := by
  refine ⟨fun s x y dst hu => ⟨?_, opNbcd_onDigits hu⟩, fun s x y dst hu => ⟨fun hn => ?_, fun hs hm hn => ?_,
    opNbcd_onOthers hu⟩⟩ <;> simp only [List.forall_mem_cons, List.not_mem_nil, false_implies, implies_true, and_true]
  · exact ⟨isDecimal_bcdAdd.opExtended_onDigits hu x y, isDecimal_bcdSub.opExtended_onDigits hu x y⟩
  · exact ⟨isDecimal_bcdAdd.opExtended_registers_onOthers hu hn, isDecimal_bcdSub.opExtended_registers_onOthers hu hn⟩
  · exact ⟨isDecimal_bcdAdd.opExtended_memory_onOthers hu hs hm hn,
      isDecimal_bcdSub.opExtended_memory_onOthers hu hs hm hn⟩

end Sys2Proof.Machine

/-! ## Conditions and branches (47_program_control.md R350 to R353, R355) -/

namespace Sys2Proof.Machine

/-! ### The table of conditions (R350) -/

/-- A fact about a condition and all condition codes is a table of truth values. -/
theorem Ccr.forall_iff {P : Ccr → Prop} : (∀ f, P f) ↔ ∀ x n z v c, P ⟨x, n, z, v, c⟩ :=
  ⟨fun h _ _ _ _ _ => h _, fun h ⟨_, _, _, _, _⟩ => h _ _ _ _ _⟩

/-- GE: N and V agree, as the sum of products of R350. -/
theorem cond_ge (f : Ccr) : cond 12#4 f = ((f.n && f.v) || (!f.n && !f.v)) := by
  revert f
  rw [Ccr.forall_iff]
  decide

theorem cond_lt (f : Ccr) : cond 13#4 f = ((f.n && !f.v) || (!f.n && f.v)) := by
  revert f
  rw [Ccr.forall_iff]
  decide

theorem cond_gt (f : Ccr) : cond 14#4 f = ((f.n && f.v && !f.z) || (!f.n && !f.v && !f.z)) := by
  revert f
  rw [Ccr.forall_iff]
  decide

theorem cond_le (f : Ccr) : cond 15#4 f = (f.z || (f.n && !f.v) || (!f.n && f.v)) := by
  revert f
  rw [Ccr.forall_iff]
  decide

theorem cond_odd (k : BitVec 3) (f : Ccr) : cond (k ++ 1#1) f = !cond (k ++ 0#1) f := by
  revert k f
  simp only [Ccr.forall_iff]
  decide

theorem cond_table (f : Ccr) :
    (List.range 16).map (fun k => cond (BitVec.ofNat 4 k) f) =
      [true, false, !f.c && !f.z, f.c || f.z, !f.c, f.c, !f.z, f.z, !f.v, f.v, !f.n, f.n,
        (f.n && f.v) || (!f.n && !f.v), (f.n && !f.v) || (!f.n && f.v),
        (f.n && f.v && !f.z) || (!f.n && !f.v && !f.z), f.z || (f.n && !f.v) || (!f.n && f.v)] := by
  rw [← cond_ge, ← cond_lt, ← cond_gt, ← cond_le]
  rfl

/-! ### Bcc and BRA (R351 to R353) -/

section

variable {s : State} {d : Disp} (hu : untraced s = true)
include hu

theorem opBra_run (hf : fetchable s 0 d.exts.length = true) :
    opBra d s = .next (s.withPc (s.ctx.pc + 2#32 + dispValue d)) := by
  refine runInstr_goto hu ?_
  rw [M_bind_ok (branchTarget_run hf)]
  rfl

theorem opBcc_taken {cc : BitVec 4} (hc : cond cc s.ctx.ccr = true) (hf : fetchable s 0 d.exts.length = true) :
    opBcc cc d s = .next (s.withPc (s.ctx.pc + 2#32 + dispValue d)) := by
  refine runInstr_goto hu ?_
  rw [M_bind_ok (getCcr_run s), if_pos hc, M_bind_ok (branchTarget_run hf)]
  rfl

/-- A branch that is not taken fetches no displacement word (R11; log 42). -/
theorem opBcc_untaken {cc : BitVec 4} (hc : cond cc s.ctx.ccr = false) :
    opBcc cc d s = .next (s.withPc (s.after (1 + d.exts.length))) := by
  refine runInstr_next hu ?_
  rw [M_bind_ok (getCcr_run s), if_neg (by simp [hc])]
  rfl

/-- Both outcomes of a branch whose condition has the truth value `b`. -/
theorem opBcc_run {cc : BitVec 4} {b : Bool} (hc : cond cc s.ctx.ccr = b) :
    (b = true → fetchable s 0 d.exts.length = true →
      opBcc cc d s = .next (s.withPc (s.ctx.pc + 2#32 + dispValue d))) ∧
    (b = false → opBcc cc d s = .next (s.withPc (s.after (1 + d.exts.length)))) :=
  ⟨fun h => opBcc_taken hu (hc.trans h), fun h => opBcc_untaken hu (hc.trans h)⟩

end

/-! ### DBcc (R355) -/

/-- Whether a word can be fetched is a matter of the parameters and the stale bytes. -/
theorem fetchCheck_congr {s t : State} (hp : t.params = s.params) (hst : t.stale = s.stale) (a : Long) :
    fetchCheck t a = fetchCheck s a := by
  have stale : ∀ b, t.isStale b = s.isStale b := fun b => by rw [State.isStale, hp, hst, State.isStale]
  simp only [fetchCheck, stale, hp]

@[simp] theorem State.withD_fetchable (s : State) (r : BitVec 3) (sz : Size) (v : Long) (k n : Nat) :
    fetchable (s.withD r sz v) k n = fetchable s k n := by
  unfold fetchable
  rw [State.withD_ctx, Ctx.withD_pc]
  simp only [fetchCheck_congr (State.withD_params s r sz v) (State.withD_stale s r sz v)]

/-- The counter of DBcc, as a word. -/
theorem trunc_word_pred (v : Long) : trunc .w (v - 1#32) = (v.setWidth 16 - 1#16).setWidth 32 := by
  have low : (v - 1#32).setWidth 16 = v.setWidth 16 - 1#16 := by bv_omega
  rw [trunc, low]

/-- The counter has run out when it was 0. -/
theorem word_pred_eq_iff (low : Word) : (low - 1#16).setWidth 32 = 0xFFFF#32 ↔ low = 0#16 := by
  constructor <;> intro h <;> bv_omega

section

variable {s : State} {cc : BitVec 4} (r : BitVec 3) (d : Word) (hu : untraced s = true)
include hu

theorem opDbcc_holds (hc : cond cc s.ctx.ccr = true) : opDbcc cc r d s = .next (s.withPc (s.after 2)) := by
  refine runInstr_next hu ?_
  rw [M_bind_ok (getCcr_run s), if_pos hc]
  rfl

variable (hc : cond cc s.ctx.ccr = false)
include hc

/-- DBcc whose condition fails counts down and then asks whether the counter was 0. -/
theorem opDbcc_counts :
    let low : Word := (s.ctx.getD r).setWidth 16
    let t := s.withD r .w ((low - 1#16).setWidth 32)
    (low = 0#16 → opDbcc cc r d s = .next (t.withPc (s.after 2))) ∧
    (low ≠ 0#16 → fetchable s 0 1 = true →
      opDbcc cc r d s = .next (t.withPc (s.ctx.pc + 2#32 + d.signExtend 32))) := by
  intro low t
  refine ⟨fun h0 => runInstr_next hu ?_, fun h0 hf => runInstr_goto hu ?_⟩ <;>
    rw [M_bind_ok (getCcr_run s), if_neg (by simp [hc]), M_bind_ok (getD_run r s), trunc_word_pred,
      M_bind_ok (setD_run r .w _ s)]
  · rw [if_pos ((word_pred_eq_iff _).2 h0)]
    rfl
  · rw [if_neg (mt (word_pred_eq_iff _).1 h0),
      M_bind_ok (branchTarget_run (d := .word d) ((State.withD_fetchable s r _ _ _ _).trans hf))]
    simp [t, low, dispValue]

end

/-- Settles O43: the conditions by their table, each Bcc by its condition's entry in it, DBcc by `opDbcc_counts`. -/
theorem branchForms : Obligations.BranchForms := by
  refine ⟨fun f => ⟨cond_table f, fun k => cond_odd k f⟩, fun s d hu => ⟨?_, opBra_run hu⟩, fun s cc r d hu =>
    ⟨opDbcc_holds r d hu, fun hc => (opDbcc_counts r d hu hc).1, fun hc => (opDbcc_counts r d hu hc).2⟩⟩
  have simple := fun (cc : BitVec 4) => opBcc_run (d := d) hu (cc := cc) rfl
  simp only [List.forall_mem_cons, List.not_mem_nil, false_implies, implies_true, and_true]
  exact ⟨simple 2, simple 3, simple 4, simple 5, simple 6, simple 7, simple 8, simple 9, simple 10, simple 11,
    opBcc_run hu (cond_ge _), opBcc_run hu (cond_lt _), opBcc_run hu (cond_gt _), opBcc_run hu (cond_le _)⟩

end Sys2Proof.Machine

/-! ## What calls, returns, PEA, LINK and UNLK leave unchanged (40_data_movement.md R174 to R176,
47_program_control.md R354, R358 to R361)

The stack instructions are read off the states of their equations: a push changes the cells of its slot and SP, a pop
SP alone. -/

namespace Sys2Proof.Machine

/-! ### Frames of pushes and pops -/

section

variable {cells : Nat → Prop} {regs : List (BitVec 4)} {s t : State}

/-- SP is A7, general register 15. -/
theorem Framed.withSp (h : Framed cells regs s t) (hsp : 15#4 ∈ regs) (v : Long) : Framed cells regs s (t.withSp v) :=
  h.withA (r := 7#3) hsp v

/-- The cells a push of size `sz` stores to. -/
def slotCells (s : State) (sz : Size) : Nat → Prop := operandCells s.params sz (.mem (s.ctx.sp - stepOf sz))

theorem framed_pushed (hsp : 15#4 ∈ regs) (sz : Size) (v : Long) :
    Framed (slotCells s sz) regs s (s.pushed sz v) :=
  ((Framed.refl _ regs s).storeAt (p := ⟨.mem (s.ctx.sp - stepOf sz), none⟩) (List.nil_subset _) (fun _ hb => hb)
    v).withSp hsp _

/-- The frame of a push of a long word, in the words of Sys2Proof/Safety.lean. -/
theorem Framed.outsideSlot (h : Framed (slotCells s .l) regs s t) :
    sameMemoryOutside s t (s.ctx.sp - 4#32) 4 ∧ sameRegisters s t regs ∧ sameSystem s t := by
  obtain ⟨hmem, -, hregs, hsys⟩ := h.outsideOperand
  exact ⟨hmem _ rfl, hregs, hsys⟩

/-- A frame without cells, in the words of Sys2Proof/Safety.lean. -/
theorem Framed.sameMemory (h : Framed noCells regs s t) :
    sameMemory s t ∧ sameRegisters s t regs ∧ sameSystem s t :=
  ⟨fun b => h.memory b id, h.registers, h.system⟩

end

/-! ### The instructions -/

section

variable {s t : State} (hu : untraced s = true)
include hu

section

variable (hp : pushable s .l = true)
include hp

theorem exec_bsr_framed {d : Disp}
    (hf : fetchable (s.pushed .l (s.after (1 + d.exts.length))) 0 d.exts.length = true) :
    EndsFramed (slotCells s .l) [15#4] s (exec (.bsr d) s) :=
  ⟨_, exec_bsr hu hp hf, (framed_pushed List.mem_cons_self .l _).withPc _⟩

theorem exec_jsr_framed {ea : EA} (ha : addressReady s ea 0 = true) :
    EndsFramed (slotCells s .l) [15#4] s (exec (.jsr ea) s) :=
  ⟨_, exec_jsr hu ha hp, (framed_pushed List.mem_cons_self .l _).withPc _⟩

theorem opPea_framed {ea : EA} (ha : addressReady s ea 0 = true) :
    EndsFramed (slotCells s .l) [15#4] s (opPea ea s) :=
  ⟨_, opPea_run hu ha hp, (framed_pushed List.mem_cons_self .l _).withPc _⟩

/-- LINK A7 is refused, so a LINK that completes names another register. -/
theorem opLink_framed {n : Nat} {r : BitVec 3} {d : Long} (hf : fetchable s 0 n = true) (hx : opLink n r d s = .next t) :
    Framed (slotCells s .l) [15#4, 1#1 ++ r] s t := by
  by_cases hr : r = 7#3
  · cases (opLink_a7 n d hr).symm.trans hx
  · cases (opLink_run hu d hr hf hp).symm.trans hx
    exact (((framed_pushed (by simp) .l _).withA (by simp) _).withSp (by simp) _).withPc _

end

theorem exec_rts_framed (hr : readable s s.ctx.sp .l = true) : EndsFramed noCells [15#4] s (exec .rts s) :=
  ⟨_, exec_rts hu hr, ((Framed.refl _ _ s).withSp List.mem_cons_self _).withPc _⟩

theorem exec_rtd_framed (d : Word) (hr : readable s s.ctx.sp .l = true) (hf : fetchable s 0 1 = true) :
    EndsFramed noCells [15#4] s (exec (.rtd d) s) :=
  ⟨_, exec_rtd d hu hr hf, ((Framed.refl _ _ s).withSp List.mem_cons_self _).withPc _⟩

theorem exec_rtr_framed (hw : readable s s.ctx.sp .w = true) (hl : readable s (s.ctx.sp + 2#32) .l = true) :
    EndsFramed noCells [15#4] s (exec .rtr s) :=
  ⟨_, exec_rtr hu hw hl, (((Framed.refl _ _ s).withSp List.mem_cons_self _).withCcr _).withPc _⟩

theorem opUnlk_framed {r : BitVec 3} (hr : r ≠ 7#3) (hread : readable s (s.ctx.getA r) .l = true) :
    EndsFramed noCells [15#4, 1#1 ++ r] s (opUnlk r s) :=
  ⟨_, opUnlk_run hu hr hread, (((Framed.refl _ _ s).withA (by simp) _).withSp (by simp) _).withPc _⟩

end

/-- Settles O59: each instruction ends framed, a push by its slot, a pop by no cell. -/
theorem frameOfStack : Obligations.FrameOfStack := by
  intro s t ea d r w l hu
  refine ⟨fun hp ha hf hfd => ?_, fun hl hw hl2 hf => ?_, fun hr hl hx => ((opUnlk_framed hu hr hl).next hx).sameMemory⟩
  · simp only [List.forall_mem_cons, List.not_mem_nil, false_implies, implies_true, and_true]
    exact ⟨fun hx => ((exec_bsr_framed hu hp hfd).next hx).outsideSlot,
      fun hx => ((exec_jsr_framed hu hp ha).next hx).outsideSlot,
      fun hx => ((opPea_framed hu hp ha).next hx).outsideSlot,
      fun hx => (opLink_framed hu hp (fetchable_split (m := 1) (n := 1) hf).1 hx).outsideSlot,
      fun hx => (opLink_framed hu hp hf hx).outsideSlot⟩
  · simp only [List.forall_mem_cons, List.not_mem_nil, false_implies, implies_true, and_true]
    exact ⟨fun hx => ((exec_rts_framed hu hl).next hx).sameMemory,
      fun hx => ((exec_rtd_framed hu w hl hf).next hx).sameMemory,
      fun hx => ((exec_rtr_framed hu hw hl2).next hx).sameMemory⟩

end Sys2Proof.Machine

/-! ## A call and its return, LINK and its UNLK (40_data_movement.md R175, R176, 47_program_control.md R354, R358,
R359) -/

namespace Sys2Proof.Machine

/-! ### SP and the registers beside it -/

/-- The pc and SP may be replaced in either order. -/
theorem Ctx.withSp_withPc (c : Ctx) (v p : Long) : Ctx.withSp { c with pc := p } v = { c.withSp v with pc := p } :=
  Ctx.withA_withPc c 7#3 v p

/-- So may SP and another address register. -/
theorem Ctx.withA_withSp (c : Ctx) {r : BitVec 3} (hr : r ≠ 7#3) (x v : Long) :
    (c.withSp v).withA r x = (c.withA r x).withSp v := by
  have named : r.toNat < 7 := by bv_omega
  unfold Ctx.withA
  rw [dif_pos named, dif_pos named]
  unfold Ctx.withSp
  cases srS c.sr <;> rfl

theorem Ctx.getA_withSp (c : Ctx) {r : BitVec 3} (hr : r ≠ 7#3) (v : Long) : (c.withSp v).getA r = c.getA r :=
  Ctx.getA_withA_other (r := 7#3) c v hr

/-! ### The slot of a push -/

theorem untraced_congr {s t : State} (hp : t.params = s.params) (hsr : t.ctx.sr = s.ctx.sr) :
    untraced t = untraced s := by
  rw [untraced, hp, hsr, untraced]

section

variable {s : State}

/-- A long word that was pushed reads back. -/
theorem State.pushed_readAt (hrom : noRom s (s.ctx.sp - 4#32) 4 = true) (hbits : 4 ≤ 2 ^ s.params.addrBits) (v : Long) :
    (s.pushed .l v).readAt (s.ctx.sp - 4#32).toNat .l = v :=
  State.wrote_read s (s.ctx.sp - 4#32) .l v hbits fun _ hj => kindAt_of_noRom hrom hj

/-- Where a push can be made, its slot can be read, in any state with the same parameters. -/
theorem readable_slot {t : State} (hp : pushable s .l = true) (ht : t.params = s.params) :
    readable t (s.ctx.sp - 4#32) .l = true :=
  (readable_congr ht _ _).trans (readable_of_writable hp)

end

/-! ### The state a call leaves -/

/-- The state after a call of `target` that pushed the return address `ret`. -/
def State.called (s : State) (ret target : Long) : State := (s.pushed .l ret).withPc target

section

variable {s : State} (ret target : Long)

theorem State.called_params : (s.called ret target).params = s.params := by simp [State.called]

theorem State.called_ctx : (s.called ret target).ctx = { s.ctx.withSp (s.ctx.sp - 4#32) with pc := target } := by
  rw [State.called, State.withPc_ctx, State.pushed_ctx]
  rfl

theorem State.called_sp : (s.called ret target).ctx.sp = s.ctx.sp - 4#32 := by
  rw [State.called_ctx, Ctx.sp_withPc, Ctx.sp_withSp]

theorem State.called_untraced (hu : untraced s = true) : untraced (s.called ret target) = true :=
  (untraced_congr (State.called_params ret target) (by rw [State.called_ctx]; simp)).trans hu

/-- RTS takes the pushed address and moves SP back, from wherever the call has gone. -/
theorem exec_rts_called (hu : untraced s = true) (hp : pushable s .l = true)
    (hrom : noRom s (s.ctx.sp - 4#32) 4 = true) (hbits : 4 ≤ 2 ^ s.params.addrBits) :
    ∃ u, exec .rts (s.called ret target) = .next u ∧ u.ctx = { s.ctx with pc := ret } := by
  have hsp := State.called_sp (s := s) ret target
  have hread : readable (s.called ret target) (s.called ret target).ctx.sp .l = true := by
    rw [hsp]
    exact readable_slot hp (State.called_params ret target)
  have hret : (s.called ret target).readAt (s.ctx.sp - 4#32).toNat .l = ret := by
    rw [State.called, State.withPc_readAt, State.pushed_readAt hrom hbits]
  refine ⟨_, exec_rts (State.called_untraced ret target hu) hread, ?_⟩
  rw [State.withPc_ctx, State.withSp_ctx, hsp, hret, State.called_ctx, Ctx.withSp_withPc, Ctx.withSp_withSp,
    BitVec.sub_add_cancel, Ctx.withSp_self]

end

/-! ### The state LINK leaves -/

/-- The state after LINK of `words` words. -/
def State.linked (s : State) (words : Nat) (r : BitVec 3) (d : Long) : State :=
  s.finished words (((s.pushed .l (s.ctx.getA r)).withA r (s.ctx.sp - 4#32)).withSp (s.ctx.sp - 4#32 + d))

section

variable {s : State} {r : BitVec 3} (hr : r ≠ 7#3) (words : Nat) (d : Long)

theorem State.linked_params : (s.linked words r d).params = s.params := by simp [State.linked, State.finished]

include hr

theorem State.linked_ctx : (s.linked words r d).ctx =
    { (s.ctx.withA r (s.ctx.sp - 4#32)).withSp (s.ctx.sp - 4#32 + d) with pc := s.after words } := by
  rw [State.linked, State.finished, State.withPc_ctx, State.withSp_ctx, State.withA_ctx, State.pushed_ctx,
    Ctx.withA_withSp _ hr, Ctx.withSp_withSp]

/-- The register of LINK points to the slot. -/
theorem State.linked_getA : (s.linked words r d).ctx.getA r = s.ctx.sp - 4#32 := by
  rw [State.linked_ctx hr, Ctx.getA_withPc, Ctx.getA_withSp _ hr, Ctx.getA_withA_same]

theorem State.linked_untraced (hu : untraced s = true) : untraced (s.linked words r d) = true :=
  (untraced_congr (State.linked_params words d) (by rw [State.linked_ctx hr]; simp)).trans hu

/-- UNLK takes the saved register from the slot its register points to, and moves SP back past it. -/
theorem opUnlk_linked (hu : untraced s = true) (hp : pushable s .l = true)
    (hrom : noRom s (s.ctx.sp - 4#32) 4 = true) (hbits : 4 ≤ 2 ^ s.params.addrBits) :
    ∃ u, opUnlk r (s.linked words r d) = .next u ∧ u.ctx = { s.ctx with pc := s.after (words + 1) } := by
  have hslot := State.linked_getA (s := s) hr words d
  have hread : readable (s.linked words r d) ((s.linked words r d).ctx.getA r) .l = true := by
    rw [hslot]
    exact readable_slot hp (State.linked_params words d)
  have hsaved : (s.linked words r d).readAt (s.ctx.sp - 4#32).toNat .l = s.ctx.getA r := by
    rw [State.linked, State.finished, State.withPc_readAt, State.withSp_readAt, State.withA_readAt,
      State.pushed_readAt hrom hbits]
  have hafter : (s.linked words r d).after 1 = s.after (words + 1) := by
    rw [State.after, State.linked_ctx hr, State.after, State.after, Nat.mul_add, BitVec.ofNat_add, BitVec.add_assoc]
  refine ⟨_, opUnlk_run (State.linked_untraced hr words d hu) hr hread, ?_⟩
  rw [State.finished, State.withPc_ctx, State.withSp_ctx, State.withA_ctx, hslot, hsaved, hafter,
    State.linked_ctx hr, Ctx.withA_withPc, Ctx.withSp_withPc, Ctx.withA_withSp _ hr, Ctx.withA_withA, Ctx.withA_self,
    Ctx.withSp_withSp, BitVec.sub_add_cancel, Ctx.withSp_self]

end

/-- Settles O45: RTS by `exec_rts_called` from where BSR and JSR go, UNLK by `opUnlk_linked`. -/
theorem callThenReturn : Obligations.CallThenReturn := by
  intro s ea d r w l hu hp hrom hbits
  refine ⟨fun hf => ?_, fun ha => ?_, fun hr hf => ?_, fun hr hf => ?_⟩
  · exact ⟨_, (exec_rts_called _ _ hu hp hrom hbits).imp fun _ hback => ⟨exec_bsr hu hp hf, hback⟩⟩
  · exact ⟨_, (exec_rts_called _ _ hu hp hrom hbits).imp fun _ hback => ⟨exec_jsr hu ha hp, hback⟩⟩
  · exact ⟨_, (opUnlk_linked hr 2 _ hu hp hrom hbits).imp fun _ hback => ⟨opLink_run hu _ hr hf hp, hback⟩⟩
  · exact ⟨_, (opUnlk_linked hr 3 _ hu hp hrom hbits).imp fun _ hback => ⟨opLink_run hu _ hr hf hp, hback⟩⟩

end Sys2Proof.Machine

/-! ## Privilege (48_system_control.md R380, R396, 60_exceptions.md R457, R480, R481)

A privileged instruction stops in user mode before it has changed anything; every other instruction leads from P to Q
where P survives the updates that unprivileged instructions make. -/

namespace Sys2Proof.Machine

/-- The instructions of R481 that check S before anything else. -/
inductive ChecksPrivilege : Instr → Prop
  | andiToSr (imm : Word) : ChecksPrivilege (.andiToSr imm)
  | eoriToSr (imm : Word) : ChecksPrivilege (.eoriToSr imm)
  | oriToSr (imm : Word) : ChecksPrivilege (.oriToSr imm)
  | moveFromSr (dst : EA) : ChecksPrivilege (.moveFromSr dst)
  | moveToUsp (r : BitVec 3) : ChecksPrivilege (.moveToUsp r)
  | moveFromUsp (r : BitVec 3) : ChecksPrivilege (.moveFromUsp r)
  | movecFromCr (xr : BitVec 4) (code : BitVec 12) : ChecksPrivilege (.movecFromCr xr code)
  | movecToCr (xr : BitVec 4) (code : BitVec 12) : ChecksPrivilege (.movecToCr xr code)
  | movesB (xr : BitVec 4) (d : Bool) (rsv : BitVec 11) (ea : EA) : ChecksPrivilege (.movesB xr d rsv ea)
  | movesW (xr : BitVec 4) (d : Bool) (rsv : BitVec 11) (ea : EA) : ChecksPrivilege (.movesW xr d rsv ea)
  | movesL (xr : BitVec 4) (d : Bool) (rsv : BitVec 11) (ea : EA) : ChecksPrivilege (.movesL xr d rsv ea)
  | rte : ChecksPrivilege .rte
  | stop (imm : Word) : ChecksPrivilege (.stop imm)
  | sleep : ChecksPrivilege .sleep
  | reset : ChecksPrivilege .reset

section

variable {i : Instr} {s : State}

/-- In user mode such an instruction raises in the state it began in (R380). -/
theorem ChecksPrivilege.stops (h : ChecksPrivilege i) (hs : srS s.ctx.sr = false) :
    ∃ words body, exec i s = runInstr words body s ∧ body s = .error (.exc .privilege) s := by
  have stop := requireSupervisor_stop hs
  cases h with
  | movecFromCr | movecToCr => exact ⟨_, _, rfl, M_bind_error (M_bind_error stop _) _⟩
  | _ => exact ⟨_, _, rfl, M_bind_error stop _⟩

/-- LPSTOP first fetches the word that completes its operation code (R380, R396). -/
theorem exec_lpstop_eq (imm : Word) (s : State) :
    ∃ rest, exec (.lpstop imm) s = runInstr 3 (do touchExt 0 1; requireSupervisor; rest) s := ⟨_, rfl⟩

/-- Settles O16: an instruction that checks S first raises in the state it began in, LPSTOP once its second word has
been fetched. -/
theorem privilegedFormsTrap : Obligations.PrivilegedFormsTrap := by
  intro s imm dst r xr code d rsv hs hentry
  have traps : ∀ {i : Instr}, ChecksPrivilege i →
      exec i s = .next (s.entered s.params.vec.privilege s.ctx.pc none none) := fun hi => by
    obtain ⟨words, body, hexec, hstop⟩ := hi.stops hs
    rw [hexec]
    exact runInstr_entered hstop rfl hentry
  refine ⟨?_, fun hf => ?_⟩
  · simp only [List.forall_mem_cons, List.not_mem_nil, false_implies, implies_true, and_true]
    exact ⟨traps (.andiToSr _), traps (.eoriToSr _), traps (.oriToSr _), traps (.moveFromSr _), traps (.moveToUsp _),
      traps (.moveFromUsp _), traps (.movecFromCr _ _), traps (.movecToCr _ _), traps (.movesB _ _ _ _),
      traps (.movesW _ _ _ _), traps (.movesL _ _ _ _), traps .rte, traps (.stop _), traps .sleep, traps .reset⟩
  · obtain ⟨rest, hexec⟩ := exec_lpstop_eq imm s
    rw [hexec]
    exact runInstr_entered ((M_bind_ok (touchExt_run hf) _).trans (M_bind_error (requireSupervisor_stop hs) _)) rfl
      hentry

/-- An instruction that checks S, LPSTOP among them, stops in user mode in the state it began in. -/
theorem exec_stops_of_user (hi : ChecksPrivilege i ∨ ∃ imm, i = .lpstop imm) (hs : srS s.ctx.sr = false) :
    ∃ words body e, exec i s = runInstr words body s ∧ body s = .error e s := by
  rcases hi with hi | ⟨imm, rfl⟩
  · obtain ⟨words, body, hexec, hstop⟩ := hi.stops hs
    exact ⟨words, body, _, hexec, hstop⟩
  · obtain ⟨rest, hexec⟩ := exec_lpstop_eq imm s
    refine ⟨3, do touchExt 0 1; requireSupervisor; rest, ?_⟩
    have fetched := keeps_touchExt (P := (· = s)) 0 1 s rfl
    cases hfetch : touchExt 0 1 s with
    | ok u t =>
      rw [hfetch] at fetched
      cases fetched
      exact ⟨_, hexec, (M_bind_ok hfetch _).trans (M_bind_error (requireSupervisor_stop hs) _)⟩
    | error e t =>
      rw [hfetch] at fetched
      cases fetched
      exact ⟨_, hexec, M_bind_error hfetch _⟩

end

/-! ### Instructions without a privilege check -/

section

variable {P Q : State → Prop}

theorem leads_opBkpt_of_step (h : StepClosed P Q)
    (halt : ∀ s, P s → P (s.withCtx { s.ctx with jtagHalt := true, run := .halted })) : Leads P Q opBkpt :=
  leads_runInstr h fun _ => keeps_bind (keeps_flush h.toClosed) fun _ =>
    keeps_ite (keeps_pure _) <| keeps_ite (keeps_raise _) <| keeps_bind (keeps_update halt) fun _ => keeps_pure _

/-- TRAPX runs MC0 through its vector from the state the switch leaves (R428). -/
theorem leads_opTrapx_of_step (h : StepClosed P Q) (switch : ∀ s, P s → P (trapxSwitch s)) (v : BitVec 4) :
    Leads P Q (opTrapx v) := by
  intro s t hs hx
  have closed := h.toClosed
  have hswitch := switch s hs
  unfold opTrapx at hx
  dsimp only at hx
  split at hx
  · exact h.done _ (keeps_takeEntry closed (keeps_enterException closed _ _ _ _) hswitch hx)
  · have jump : (do setPc (← readVector (6#4 ++ v)) : M Unit).Keeps P :=
      keeps_bind (keeps_readVector _) fun _ => keeps_setPc closed _
    have hjump := jump _ hswitch
    split at hx <;> rename_i hrun <;> rw [hrun] at hjump
    · cases hx; exact h.done _ hjump
    · exact h.done _ (keeps_memFault closed _ _ _ hjump hx)
    · exact h.done _ (keeps_memFault closed _ _ _ hjump hx)
    · cases hx
    · cases hx

/-- Every instruction without a privilege check leads from P to Q where P survives each update of an ordinary
instruction, the halt of BKPT and the switch of TRAPX. -/
theorem leads_exec_unprivileged (hstep : StepClosed P Q)
    (halt : ∀ s, P s → P (s.withCtx { s.ctx with jtagHalt := true, run := .halted }))
    (switch : ∀ s, P s → P (trapxSwitch s)) {i : Instr} (hi : ¬ ChecksPrivilege i) (hlp : ∀ imm, i ≠ .lpstop imm) :
    Leads P Q (exec i) := by
  have h := hstep.toClosed
  cases i with
  | moveB | moveW | moveL => exact leads_opMove hstep _ _ _
  | moveaW | moveaL => exact leads_opMovea hstep _ _ _
  | moveq => exact leads_opMoveq hstep _ _
  | movemStoreW | movemStoreL => exact leads_opMovemStore hstep _ _ _
  | movemLoadW | movemLoadL => exact leads_opMovemLoad hstep _ _ _
  | movepStoreW => exact leads_opMovepStoreW hstep _ _ _
  | movepStoreL => exact leads_opMovepStoreL hstep _ _ _
  | movepLoadW => exact leads_opMovepLoadW hstep _ _ _
  | movepLoadL => exact leads_opMovepLoadL hstep _ _ _
  | exgDD | exgAA | exgDA => exact leads_opExg hstep _ _
  | lea => exact leads_opLea hstep _ _
  | pea => exact leads_opPea hstep _
  | linkL | linkW => exact leads_opLink hstep _ _ _
  | unlk => exact leads_opUnlk hstep _
  | oriB | oriW | oriL | andiB | andiW | andiL | subiB | subiW | subiL | addiB | addiW | addiL | eoriB | eoriW |
    eoriL =>
    exact leads_opImmToEa hstep _ _ _ _
  | cmpiB | cmpiW | cmpiL => exact leads_opImmCompare hstep _ _ _
  | orToDnB | orToDnW | orToDnL | subToDnB | subToDnW | subToDnL | andToDnB | andToDnW | andToDnL | addToDnB |
    addToDnW | addToDnL =>
    exact leads_opEaToDn hstep _ _ _ _
  | orToEaB | orToEaW | orToEaL | subToEaB | subToEaW | subToEaL | eorB | eorW | eorL | andToEaB | andToEaW |
    andToEaL | addToEaB | addToEaW | addToEaL =>
    exact leads_opDnToEa hstep _ _ _ _
  | negxB | negxW | negxL | negB | negW | negL | notB | notW | notL => exact leads_opSingle hstep _ _ _
  | clrB | clrW | clrL => exact leads_opClr hstep _ _
  | subaW | subaL | addaW | addaL => exact leads_opAddressArith hstep _ _ _ _
  | addqB | subqB | addqW | subqW | addqL | subqL => exact leads_opQuick hstep _ _ _ _ _
  | subxB | subxW | subxL | addxB | addxW | addxL => exact leads_opExtended hstep (fun _ _ _ => keeps_pure _) _ _ _ _
  | abcd => exact leads_opExtended hstep (keeps_bcdAdd h) _ _ _ _
  | sbcd => exact leads_opExtended hstep (keeps_bcdSub h) _ _ _ _
  | extW | extL | extbL => exact leads_opExt hstep _ _ _
  | cmpB | cmpW | cmpL => exact leads_opCmp hstep _ _ _
  | cmpaW | cmpaL => exact leads_opCmpa hstep _ _ _
  | cmpmB | cmpmW | cmpmL => exact leads_opCmpm hstep _ _ _
  | tstB | tstW | tstL => exact leads_opTst hstep _ _
  | cmp2B | cmp2W | cmp2L => exact leads_opCmp2 hstep _ _ _ _
  | muluW | mulsW => exact leads_opMulW hstep _ _ _
  | muluL | mulsL => exact leads_opMulL hstep _ _ _ _ _ _ _
  | divuW | divsW => exact leads_opDivW hstep _ _ _
  | divuL | divsL => exact leads_opDivL hstep _ _ _ _ _ _ _
  | aslB | aslW | aslL | asrB | asrW | asrL | lslB | lslW | lslL | lsrB | lsrW | lsrL | roxlB | roxlW | roxlL |
    roxrB | roxrW | roxrL | rolB | rolW | rolL | rorB | rorW | rorL =>
    exact leads_opShiftReg hstep _ _ _ _ _
  | aslMem | asrMem | lslMem | lsrMem | roxlMem | roxrMem | rolMem | rorMem => exact leads_opShiftMem hstep _ _
  | swap => exact leads_opSwap hstep _
  | bchg | bclr | bset => exact leads_opBitStatic hstep _ _ _
  | bchgDn | bclrDn | bsetDn => exact leads_opBitDynamic hstep _ _ _
  | btst => exact leads_opBtstStatic hstep _ _
  | btstDn => exact leads_opBtstDynamic hstep _ _
  | tas => exact leads_opTas hstep _
  | nbcd => exact leads_opNbcd hstep _
  | bhi | bls | bcc | bcs | bne | beq | bvc | bvs | bpl | bmi | bge | blt | bgt | ble => exact leads_opBcc hstep _ _
  | bra => exact leads_opBra hstep _
  | bsr => exact leads_opBsr hstep _
  | dbcc => exact leads_opDbcc hstep _ _ _
  | scc => exact leads_opScc hstep _ _
  | jmp => exact leads_opJmp hstep _
  | jsr => exact leads_opJsr hstep _
  | rts => exact leads_opRts hstep
  | rtd => exact leads_opRtd hstep _
  | rtr => exact leads_opRtr hstep
  | nop => exact leads_opNop hstep
  | oriToCcr | andiToCcr | eoriToCcr => exact leads_opImmToCcr hstep _ _
  | moveFromCcr => exact leads_opMoveFromCcr hstep _
  | moveToCcr => exact leads_opMoveToCcr hstep _
  | bgnd => exact leads_opTrapAlways hstep .bgnd
  | illegal => exact leads_opTrapAlways hstep .illegal
  | trap v => exact leads_opTrapAlways hstep (.trap v)
  | chkW | chkL => exact leads_opChk hstep _ _ _
  | chk2B | chk2W | chk2L => exact leads_opChk2 hstep _ _ _ _
  | trapccW | trapccL | trapcc => exact leads_opTrapcc hstep _ _
  | trapv => exact leads_opTrapv hstep
  | bkpt => exact leads_opBkpt_of_step hstep halt
  | trapx v => exact leads_opTrapx_of_step hstep switch v
  | oriToSr | andiToSr | eoriToSr | moveFromSr | movecFromCr | movecToCr | moveFromUsp | moveToUsp | movesB | movesW |
    movesL | rte | stop | sleep | reset =>
    exact absurd (by constructor) hi
  | lpstop imm => exact absurd rfl (hlp imm)
  | refusedMoveToSr | refusedMovemPcW | refusedMovemPcL | refusedChkImmW | refusedChkImmL | refusedOrPcB |
    refusedOrImmB | refusedOrPcW | refusedOrImmW | refusedOrPcL | refusedOrImmL | refusedOrRegW | refusedOrRegL |
    refusedDivsImm =>
    exact leads_refuseWith _

end

/-! ### What user mode cannot change (R480) -/

/-- A context with the control registers it had; and, unless it is in supervisor state, with its SSP and the bits of
SR above the condition codes. -/
structure Ctx.Confined (c c' : Ctx) : Prop where
  vbr : c'.vbr = c.vbr
  sfc : c'.sfc = c.sfc
  dfc : c'.dfc = c.dfc
  user : srS c'.sr = false → c'.ssp = c.ssp ∧ ∀ n, 5 ≤ n → c'.sr.getLsbD n = c.sr.getLsbD n

section

variable {c c' c'' : Ctx}

theorem Ctx.Confined.of_same (hvbr : c'.vbr = c.vbr) (hsfc : c'.sfc = c.sfc) (hdfc : c'.dfc = c.dfc)
    (hssp : c'.ssp = c.ssp) (hsr : c'.sr = c.sr) : c.Confined c' :=
  ⟨hvbr, hsfc, hdfc, fun _ => ⟨hssp, fun _ _ => by rw [hsr]⟩⟩

theorem Ctx.Confined.refl (c : Ctx) : c.Confined c := .of_same rfl rfl rfl rfl rfl

/-- S is one of the bits above the condition codes, so a context confined to user mode was in user mode before. -/
theorem Ctx.Confined.trans (h : c.Confined c') (h' : c'.Confined c'') : c.Confined c'' where
  vbr := h'.vbr.trans h.vbr
  sfc := h'.sfc.trans h.sfc
  dfc := h'.dfc.trans h.dfc
  user hs := by
    obtain ⟨hssp', hhigh'⟩ := h'.user hs
    obtain ⟨hssp, hhigh⟩ := h.user ((hhigh' 13 (by decide)).symm.trans hs)
    exact ⟨hssp'.trans hssp, fun n hn => (hhigh' n hn).trans (hhigh n hn)⟩

theorem Ctx.confined_withSp (c : Ctx) (v : Long) : c.Confined (c.withSp v) where
  vbr := c.withSp_vbr v
  sfc := c.withSp_sfc v
  dfc := c.withSp_dfc v
  user hs := by
    rw [Ctx.withSp_sr] at hs
    simp [Ctx.withSp, hs]

theorem Ctx.confined_withA (c : Ctx) (r : BitVec 3) (v : Long) : c.Confined (c.withA r v) := by
  unfold Ctx.withA
  split
  · exact .of_same rfl rfl rfl rfl rfl
  · exact c.confined_withSp v

theorem Ctx.confined_withCcr (c : Ctx) (f : Ccr) : c.Confined { c with sr := putCcr c.sr f } :=
  ⟨rfl, rfl, rfl, fun _ => ⟨rfl, fun _ hn => putCcr_high _ _ hn⟩⟩

theorem Ctx.confined_entering (c : Ctx) (l : Option (BitVec 3)) : c.Confined { c with sr := srForEntry c.sr l } :=
  ⟨rfl, rfl, rfl, fun hs => by rw [srS_srForEntry] at hs; cases hs⟩

end

/-- The state of the CPU and the extended registers are those of `s0`, and context `j` is confined to what it was. -/
structure ConfinedAt (j : CtxId) (s0 t : State) : Prop where
  cpu : t.cpu = s0.cpu
  extRegs : t.extRegs = s0.extRegs
  ctx : s0.ctxs[j.val].Confined t.ctxs[j.val]

section

variable {j : CtxId} {s0 s : State}

theorem ConfinedAt.setCtx (h : ConfinedAt j s0 s) (i : CtxId) {c : Ctx} (hc : s.ctxs[i.val].Confined c) :
    s0.ctxs[j.val].Confined (s.ctxs.set i.val c)[j.val] := by
  rw [Vector.getElem_set]
  split
  · next e => exact h.ctx.trans (by simpa only [e] using hc)
  · exact h.ctx

theorem ConfinedAt.withCtx (h : ConfinedAt j s0 s) {c : Ctx} (hc : s.ctx.Confined c) :
    ConfinedAt j s0 (s.withCtx c) := ⟨h.cpu, h.extRegs, h.setCtx s.cur hc⟩

theorem ConfinedAt.reschedule (h : ConfinedAt j s0 s) : ConfinedAt j s0 (reschedule s) where
  cpu := by
    rw [← h.cpu]
    unfold Machine.reschedule
    split
    · rfl
    · split <;> rfl
  extRegs := by
    rw [← h.extRegs]
    unfold Machine.reschedule
    split
    · rfl
    · split <;> rfl
  ctx := by simpa only [reschedule_ctxs] using h.ctx

theorem confinedAt_stepClosed (j : CtxId) (s0 : State) : StepClosed (ConfinedAt j s0) (ConfinedAt j s0) where
  d _ _ _ h := h.withCtx (.of_same rfl rfl rfl rfl rfl)
  a s r v h := h.withCtx (s.ctx.confined_withA r v)
  sp s v h := h.withCtx (s.ctx.confined_withSp v)
  ccr s f h := h.withCtx (s.ctx.confined_withCcr f)
  pc _ _ h := h.withCtx (.of_same rfl rfl rfl rfl rfl)
  draws _ _ h := ⟨h.cpu, h.extRegs, h.ctx⟩
  flush _ h := ⟨h.cpu, h.extRegs, h.ctx⟩
  store _ _ _ _ h := ⟨by simpa using h.cpu, by simpa using h.extRegs, by simpa using h.ctx⟩
  enter s l h := h.withCtx (s.ctx.confined_entering l)
  mark _ _ h := ⟨h.cpu, h.extRegs, h.ctx⟩
  done _ h := h
  rescheduled _ h := h.reschedule

theorem ConfinedAt.halt (h : ConfinedAt j s0 s) :
    ConfinedAt j s0 (s.withCtx { s.ctx with jtagHalt := true, run := .halted }) :=
  h.withCtx (.of_same rfl rfl rfl rfl rfl)

theorem ConfinedAt.trapxSwitch (h : ConfinedAt j s0 s) : ConfinedAt j s0 (trapxSwitch s) := by
  have called := h.withCtx (c := { s.ctx with pc := s.ctx.pc + 2#32 }) (.of_same rfl rfl rfl rfl rfl)
  exact ⟨h.cpu, h.extRegs, called.setCtx 0 (.of_same rfl rfl rfl rfl rfl)⟩

end

/-- Settles O11: a privileged instruction raises in the state it began in, and the entry confines; every other
instruction confines by `leads_exec_unprivileged`. -/
theorem userModeConfined : Obligations.UserModeConfined := by
  intro i s t hs hx
  have closed := confinedAt_stepClosed s.cur s
  have start : ConfinedAt s.cur s s := ⟨rfl, rfl, .refl _⟩
  have confined : ConfinedAt s.cur s t := by
    by_cases hi : ChecksPrivilege i ∨ ∃ imm, i = .lpstop imm
    · obtain ⟨words, body, e, hexec, hstop⟩ := exec_stops_of_user hi hs
      rw [hexec] at hx
      cases e with
      | exc e => exact keeps_raiseExc closed.toClosed words e start start ((runInstr_exc hstop).symm.trans hx)
      | refuse r => cases (runInstr_refused hstop).symm.trans hx
    · obtain ⟨hcheck, hlp⟩ := not_or.1 hi
      exact leads_exec_unprivileged closed (fun _ => ConfinedAt.halt) (fun _ => ConfinedAt.trapxSwitch) hcheck
        (fun imm e => hlp ⟨imm, e⟩) s t start hx
  obtain ⟨hcpu, hext, hvbr, hsfc, hdfc, huser⟩ := confined
  exact ⟨hvbr, hsfc, hdfc, hext, hcpu, huser⟩

end Sys2Proof.Machine

/-! ## MOVEC, MOVE USP, MOVES (48_system_control.md R390 to R393) -/

namespace Sys2Proof.Machine

/-! ### The registers MOVEC can name (R32, R44, R46, R390) -/

section

variable {s : State} {code : BitVec 12}

theorem lookupCtrl_ext (hcode : code ∉ [0x000#12, 0x001#12, 0x800#12, 0x801#12]) :
    lookupCtrl s code = if s.cur = 0 ∧ (s.extRegs.any fun e => e.1 == code) then some (.ext code) else none := by
  simp only [List.mem_cons, List.not_mem_nil, or_false, not_or] at hcode
  obtain ⟨hsfc, hdfc, husp, hvbr⟩ := hcode
  rw [lookupCtrl, if_neg hsfc, if_neg hdfc, if_neg husp, if_neg hvbr]

/-- MOVEC_EXT_CODES counts for MC0 only (R46). -/
theorem lookupCtrl_found (hcode : code ∉ [0x000#12, 0x001#12, 0x800#12, 0x801#12]) (hcur : s.cur = 0)
    {e : BitVec 12 × ExtReg} (hfind : s.extRegs.find? (fun e => e.1 == code) = some e) :
    lookupCtrl s code = some (.ext code) := by
  rw [lookupCtrl_ext hcode, if_pos]
  exact ⟨hcur, List.any_eq_true.2 ⟨e, List.mem_of_find?_eq_some hfind,
    List.find?_some (p := fun e : BitVec 12 × ExtReg => e.1 == code) hfind⟩⟩

theorem lookupCtrl_unknown (hcode : code ∉ [0x000#12, 0x001#12, 0x800#12, 0x801#12])
    (hnone : s.cur ≠ 0 ∨ ∀ e ∈ s.extRegs, e.1 ≠ code) : lookupCtrl s code = none := by
  rw [lookupCtrl_ext hcode, if_neg]
  rintro ⟨hcur, hany⟩
  obtain ⟨e, he, heq⟩ := List.any_eq_true.1 hany
  rcases hnone with hcur' | hne
  · exact hcur' hcur
  · exact hne e he (beq_iff_eq.1 heq)

/-- An extended register written reads back as plain; every other reads as before. -/
theorem writeExt_find? (l : List (BitVec 12 × ExtReg)) (x : Long) (hmem : (l.any fun e => e.1 == code) = true)
    (e : BitVec 12) :
    (writeExt l code x).find? (fun e' => e'.1 == e) =
      if e = code then some (code, .plain x) else l.find? (fun e' => e'.1 == e) := by
  induction l with
  | nil => cases hmem
  | cons a l ih =>
    rw [writeExt]
    by_cases ha : a.1 = code
    · rw [if_pos ha, List.find?_cons, List.find?_cons, ha]
      by_cases he : e = code
      · simp [he]
      · rw [beq_false_of_ne (Ne.symm he), if_neg he]
    · have hrest : (l.any fun e => e.1 == code) = true := by simpa [ha] using hmem
      rw [if_neg ha, List.find?_cons, List.find?_cons, ih hrest]
      by_cases he : e = code
      · rw [he, beq_false_of_ne ha]
      · simp only [he, if_false]

/-- FCR keeps the low three bits of a value up to 4 (R44). -/
theorem fcrValue_named {x : Long} {f : CtxId} (hf : x.toNat % 8 = f.val) (s : State) : fcrValue x s = .ok f s := by
  have low : (x.setWidth 3).toNat = f.val := (BitVec.toNat_setWidth 3 x).trans hf
  have small : (x.setWidth 3).toNat < 5 := low ▸ f.isLt
  rw [fcrValue, dif_pos small]
  exact congrArg (fun g => EStateM.Result.ok g s) (Fin.ext low)

/-- A value above 4 leaves a free context number (log 21). -/
theorem fcrValue_free {x : Long} {f : CtxId} {s : State} (hx : 4 < x.toNat % 8) (hf : (s.free 0).toNat % 5 = f.val) :
    fcrValue x s = .ok f (s.drew 1) := by
  have big : ¬ (x.setWidth 3).toNat < 5 := by rw [BitVec.toNat_setWidth]; omega
  rw [fcrValue, dif_neg big, drawCtxId, M_bind_ok (draw_run s)]
  exact congrArg (fun g => EStateM.Result.ok g (s.drew 1)) (Fin.ext hf)

end

/-! ### MOVEC (R390) -/

section

variable {s : State} {code : BitVec 12} {c : CtrlReg} (hs : srS s.ctx.sr = true) (hf : fetchable s 0 1 = true)
include hs hf

theorem movecReg_run (hlookup : lookupCtrl s code = some c) : movecReg code s = .ok c s.flush := by
  rw [movecReg, M_bind_ok (requireSupervisor_run hs), M_bind_ok (touchExt_run hf), M_bind_ok (flushPipeline_run s),
    M_bind_read, show lookupCtrl s.flush code = some c from hlookup]
  rfl

theorem movecReg_stop (hlookup : lookupCtrl s code = none) : movecReg code s = .error (.exc .illegal) s.flush := by
  rw [movecReg, M_bind_ok (requireSupervisor_run hs), M_bind_ok (touchExt_run hf), M_bind_ok (flushPipeline_run s),
    M_bind_read, show lookupCtrl s.flush code = none from hlookup]
  rfl

/-- A code that names no register traps from the state before the flush (R390, R451). -/
theorem movec_illegal (hlookup : lookupCtrl s code = none) (xr : BitVec 4)
    (hentry : entryReady s s.params.vec.illegal false = true) :
    opMovecFromCr xr code s = .next (s.entered s.params.vec.illegal s.ctx.pc none none) ∧
      opMovecToCr xr code s = .next (s.entered s.params.vec.illegal s.ctx.pc none none) := by
  have stop := movecReg_stop hs hf hlookup
  exact ⟨(runInstr_exc (M_bind_error stop _)).trans (takeEntry_run hentry),
    (runInstr_exc (M_bind_error stop _)).trans (takeEntry_run hentry)⟩

variable (hu : untraced s = true) (hlookup : lookupCtrl s code = some c) (xr : BitVec 4)
include hu hlookup

theorem opMovecFromCr_run :
    opMovecFromCr xr code s = .next (s.finished 2 (s.flush.withR xr (ctrlValue s c))) := by
  refine runInstr_next hu ?_
  rw [M_bind_ok (movecReg_run hs hf hlookup)]
  rfl

theorem opMovecToCr_run {t : State} (hwrite : writeCtrl c (s.ctx.getR xr) s.flush = .ok () t) :
    opMovecToCr xr code s = .next (s.finished 2 t) := by
  refine runInstr_next hu ?_
  rw [M_bind_ok (movecReg_run hs hf hlookup), M_bind_ok (getR_run _ _), State.flush_ctx, M_bind_ok hwrite]
  rfl

end

section

variable {s : State} {code : BitVec 12} {v : Long}

theorem extValue_plain (hfind : s.extRegs.find? (fun e => e.1 == code) = some (code, .plain v)) :
    extValue s code = v := by rw [extValue, hfind]

theorem extValue_fcr (hfind : s.extRegs.find? (fun e => e.1 == code) = some (code, .fcr)) :
    extValue s code = BitVec.ofNat 32 s.fcr.val := by rw [extValue, hfind]

theorem writeCtrl_plain (hfind : s.extRegs.find? (fun e => e.1 == code) = some (code, .plain v)) (x : Long) :
    writeCtrl (.ext code) x s = .ok () { s with extRegs := writeExt s.extRegs code x } := by
  rw [writeCtrl, M_bind_read, hfind]
  rfl

theorem writeCtrl_fcr {t : State} {f : CtxId} {x : Long}
    (hfind : s.extRegs.find? (fun e => e.1 == code) = some (code, .fcr)) (hval : fcrValue x s = .ok f t) :
    writeCtrl (.ext code) x s = .ok () { t with fcr := f } := by
  rw [writeCtrl, M_bind_read, hfind]
  exact M_bind_ok hval _

end

/-- Settles O47: the register a code names by `lookupCtrl`, what MOVEC does with it by `opMovecFromCr_run`,
`opMovecToCr_run` and `movec_illegal`. -/
theorem movecForms : Obligations.MovecForms := by
  intro s xr code v hu hs hf
  refine ⟨?_, fun hcode => ⟨fun hcur hfind => ?_, fun hcur hfind => ?_, fun hnone hentry => ?_⟩⟩
  · simp only [List.forall_mem_cons, List.not_mem_nil, false_implies, implies_true, and_true]
    exact ⟨⟨opMovecFromCr_run hs hf hu (c := .sfc) rfl xr, opMovecToCr_run hs hf hu (c := .sfc) rfl xr rfl⟩,
      ⟨opMovecFromCr_run hs hf hu (c := .dfc) rfl xr, opMovecToCr_run hs hf hu (c := .dfc) rfl xr rfl⟩,
      ⟨opMovecFromCr_run hs hf hu (c := .usp) rfl xr, opMovecToCr_run hs hf hu (c := .usp) rfl xr rfl⟩,
      ⟨opMovecFromCr_run hs hf hu (c := .vbr) rfl xr, opMovecToCr_run hs hf hu (c := .vbr) rfl xr rfl⟩⟩
  · have hlookup := lookupCtrl_found hcode hcur hfind
    refine ⟨?_, _, opMovecToCr_run hs hf hu hlookup xr (writeCtrl_plain (s := s.flush) hfind _), ?_, rfl, fun e => ?_⟩
    · rw [← extValue_plain hfind]
      exact opMovecFromCr_run hs hf hu hlookup xr
    · exact State.withPc_ctx _ _
    · exact writeExt_find? s.extRegs _
        (List.any_eq_true.2 ⟨_, List.mem_of_find?_eq_some hfind, beq_self_eq_true _⟩) e
  · have hlookup := lookupCtrl_found hcode hcur hfind
    refine ⟨?_, fun f => ⟨fun hx => ?_, fun hx hfree => ?_⟩⟩
    · rw [← extValue_fcr hfind]
      exact opMovecFromCr_run hs hf hu hlookup xr
    · exact opMovecToCr_run hs hf hu hlookup xr (writeCtrl_fcr (s := s.flush) hfind (fcrValue_named hx _))
    · exact opMovecToCr_run hs hf hu hlookup xr (writeCtrl_fcr (s := s.flush) hfind (fcrValue_free hx hfree))
  · exact movec_illegal hs hf (lookupCtrl_unknown hcode hnone) xr hentry

/-! ### MOVE USP (R393) -/

section

variable {s : State} (hu : untraced s = true) (hs : srS s.ctx.sr = true) (r : BitVec 3)
include hu hs

theorem opMoveToUsp_run :
    opMoveToUsp r s = .next (s.finished 1 (s.flush.withCtx { s.ctx with usp := s.ctx.getA r })) := by
  refine runInstr_next hu ?_
  rw [M_bind_ok (requireSupervisor_run hs)]
  rfl

theorem opMoveFromUsp_run : opMoveFromUsp r s = .next (s.finished 1 (s.flush.withA r s.ctx.usp)) := by
  refine runInstr_next hu ?_
  rw [M_bind_ok (requireSupervisor_run hs)]
  rfl

end

/-! ### MOVES (R391, R392) -/

/-- The flush and the register update of a mode may be exchanged. -/
theorem State.bump_flush (s : State) (p : Place) : (s.bump p).flush = s.flush.bump p := by
  unfold State.bump
  split <;> rfl

/-- A mode that updates a register is `(An)+` or `-(An)`. -/
theorem movesItself_of_upd {s : State} {ea : EA} {sz : Size} {k : Nat} {n : BitVec 3} {u : Long}
    (hupd : (placeOf s ea sz k).upd = some (n, u)) : movesItself (1#1 ++ n) ea = true := by
  cases ea with
  | postinc m | predec m =>
    cases hupd
    exact beq_self_eq_true _
  | _ => cases hupd

section

variable {s : State} {sz : Size} {xr : BitVec 4} {ea : EA} {p : Place}

theorem movesValue_other (h : movesItself xr ea = false) : movesValue xr ea p s = .ok (s.ctx.getR xr) s := by
  rw [movesValue, M_bind_ok (getR_run _ _), h]
  rfl

/-- The value of a register that its own mode updates is the one before or after, by a free bit (R392). -/
theorem movesValue_itself {n : BitVec 3} {u : Long} (h : movesItself xr ea = true) (hupd : p.upd = some (n, u)) :
    movesValue xr ea p s = .ok (if s.freeBit 0 then u else s.ctx.getR xr) (s.drew 1) := by
  rw [movesValue, M_bind_ok (getR_run _ _), if_pos h, M_bind_ok (drawBit_run s), hupd]
  rfl

variable {rsv : BitVec 11} (hs : srS s.ctx.sr = true) (hf : fetchable s 0 1 = true)
include hs hf

theorem opMoves_reserved (hr : rsv ≠ 0#11) (toMem : Bool) : opMoves sz xr toMem rsv ea s = .refused .reservedBits := by
  refine runInstr_refused (t := s) ?_
  rw [M_bind_ok (requireSupervisor_run hs), beq_false_of_ne hr]
  exact M_bind_error (specialWord_stop hf) _

variable (hu : untraced s = true)
include hu

/-- MOVES to memory stores the value of its register after the flush (log 17). -/
theorem opMoves_store {v : Long} {n : Nat} (ht : targetReady s ea sz 1 = true)
    (hv : movesValue xr ea (placeOf s ea sz 1) s.flush = .ok v (s.flush.drew n)) :
    opMoves sz xr true 0#11 ea s = .next (s.finished (2 + ea.extWords sz)
      (((s.flush.drew n).storeAt sz v (placeOf s ea sz 1).loc).bump (placeOf s ea sz 1))) := by
  simp only [targetReady, Bool.and_eq_true] at ht
  obtain ⟨hlocated, hwritable⟩ := ht
  have hwrite := writeLoc_run (s := s.flush.drew n) ((writableAt_congr rfl _ _).trans hwritable) v
  refine runInstr_next hu ?_
  rw [M_bind_ok (requireSupervisor_run hs), beq_self_eq_true, M_bind_ok (specialWord_run hf),
    M_bind_ok (locate_run hlocated), M_bind_ok (flushPipeline_run s), if_pos rfl, M_bind_ok hv]
  exact (M_bind_ok hwrite _).trans (M_bind_ok (commit_run _ _) _)

/-- MOVES from memory loads the low bits of a data register, or the whole of an address register. -/
theorem opMoves_load (hsrc : sourceReady s ea sz 1 = true) :
    opMoves sz xr false 0#11 ea s =
      let p := placeOf s ea sz 1
      let v := valueAt s sz p.loc
      let t := (s.bump p).flush
      .next (s.finished (2 + ea.extWords sz)
        (if xr.getLsbD 3 then t.withR xr (sext sz v) else t.withD (xr.setWidth 3) sz v)) := by
  simp only [sourceReady, Bool.and_eq_true] at hsrc
  obtain ⟨hlocated, hreadable⟩ := hsrc
  have hread : readLoc sz (placeOf s ea sz 1).loc s.flush = .ok (valueAt s sz (placeOf s ea sz 1).loc) s.flush := by
    generalize (placeOf s ea sz 1).loc = l at hreadable
    cases l with
    | mem a => exact memRead_run (s := s.flush) hreadable
    | _ => rfl
  refine runInstr_next hu ?_
  rw [M_bind_ok (requireSupervisor_run hs), beq_self_eq_true, M_bind_ok (specialWord_run hf),
    M_bind_ok (locate_run hlocated), M_bind_ok (flushPipeline_run s), if_neg Bool.false_ne_true, M_bind_ok hread,
    M_bind_ok (commit_run _ _), State.bump_flush]
  cases xr.getLsbD 3 <;> rfl

theorem opMoves_forms :
    (rsv ≠ 0#11 → opMoves sz xr true rsv ea s = .refused .reservedBits ∧
      opMoves sz xr false rsv ea s = .refused .reservedBits) ∧
    (targetReady s ea sz 1 = true → movesItself xr ea = false →
      opMoves sz xr true 0#11 ea s = .next (s.finished (2 + ea.extWords sz)
        ((s.flush.storeAt sz (s.ctx.getR xr) (placeOf s ea sz 1).loc).bump (placeOf s ea sz 1)))) ∧
    (targetReady s ea sz 1 = true → ∀ n u, (placeOf s ea sz 1).upd = some (n, u) → xr = 1#1 ++ n →
      opMoves sz xr true 0#11 ea s = .next (s.finished (2 + ea.extWords sz)
        (((s.flush.drew 1).storeAt sz (if s.freeBit 0 then u else s.ctx.getR xr) (placeOf s ea sz 1).loc).bump
          (placeOf s ea sz 1)))) ∧
    (sourceReady s ea sz 1 = true →
      let v := valueAt s sz (placeOf s ea sz 1).loc
      let t := (s.bump (placeOf s ea sz 1)).flush
      opMoves sz xr false 0#11 ea s = .next (s.finished (2 + ea.extWords sz)
        (if xr.getLsbD 3 then t.withR xr (sext sz v) else t.withD (xr.setWidth 3) sz v))) := by
  refine ⟨fun hr => ⟨opMoves_reserved hs hf hr _, opMoves_reserved hs hf hr _⟩, fun ht hother => ?_,
    fun ht n u hupd hxr => ?_, opMoves_load hs hf hu⟩
  · exact opMoves_store hs hf hu (n := 0) ht (movesValue_other hother)
  · subst hxr
    exact opMoves_store hs hf hu (n := 1) ht (movesValue_itself (movesItself_of_upd hupd) hupd)

end

/-- Settles O48: MOVE USP by its two equations, MOVES of each size by `opMoves_forms`. -/
theorem uspAndMoves : Obligations.UspAndMoves := by
  intro s r xr rsv ea hu hs
  refine ⟨opMoveToUsp_run hu hs r, opMoveFromUsp_run hu hs r, fun hf => ?_⟩
  simp only [List.forall_mem_cons, List.not_mem_nil, false_implies, implies_true, and_true]
  exact ⟨opMoves_forms hs hf hu, opMoves_forms hs hf hu, opMoves_forms hs hf hu⟩

end Sys2Proof.Machine

/-! ## RTE, STOP, LPSTOP, SLEEP, RESET (48_system_control.md R394 to R398), and tracing (60_exceptions.md R475) -/

namespace Sys2Proof.Machine

/-- An instruction whose computation answers completes. -/
theorem runInstr_completes {s t : State} {words : Nat} {body : M Flow} {f : Flow} (h : body s = .ok f t) :
    runInstr words body s = complete words s t f := by
  rw [runInstr, h]

/-! ### RTE (R394, R461) -/

/-- The format of a frame is the top nibble of its Format/Offset word. -/
theorem frameFormat_toNat (s : State) (a : Nat) :
    ((s.readAt a .w).extractLsb' 12 4).toNat = (s.readAt a .w).toNat / 2 ^ 12 := by
  have word : (s.readAt a .w).toNat < 2 ^ 16 := by
    rw [State.readAt, BitVec.toNat_setWidth]
    omega
  rw [BitVec.extractLsb'_toNat, Nat.shiftRight_eq_div_pow, Nat.mod_eq_of_lt (by omega)]

theorem frameSize_known (s : State) (a : Nat) : ∀ row ∈ [(0, 8#32), (2, 12#32)],
    (s.readAt a .w).toNat / 2 ^ 12 = row.1 → frameSize (s.readAt a .w) = some row.2 := by
  simp only [List.forall_mem_cons, List.not_mem_nil, false_implies, implies_true, and_true]
  constructor <;> intro hformat <;> rw [frameSize, frameFormat_toNat, hformat] <;> rfl

theorem frameSize_unknown {s : State} {a : Nat} (h0 : (s.readAt a .w).toNat / 2 ^ 12 ≠ 0)
    (h2 : (s.readAt a .w).toNat / 2 ^ 12 ≠ 2) : frameSize (s.readAt a .w) = none := by
  rw [frameSize, frameFormat_toNat]
  split
  · next hformat => exact absurd hformat h0
  · next hformat => exact absurd hformat h2
  · rfl

section

variable {s : State}

/-- In supervisor state SP is SSP (R23). -/
theorem Ctx.sp_supervisor {c : Ctx} (hs : srS c.sr = true) : c.sp = c.ssp := if_pos hs

theorem Ctx.withSp_supervisor {c : Ctx} (hs : srS c.sr = true) (v : Long) : c.withSp v = { c with ssp := v } :=
  if_pos hs

/-- The state RTE leaves once it has freed `size` bytes: SR and the pc from the frame. -/
def State.returned (s : State) (size : Long) : State :=
  s.flush.withCtx { s.ctx with
    ssp := s.ctx.ssp + size
    sr := srUnpack s.params.srLayout ((s.readAt s.ctx.ssp.toNat .w).setWidth 16)
    pc := s.readAt (s.ctx.ssp + 2#32).toNat .l }

variable (hs : srS s.ctx.sr = true) (hsr : readable s s.ctx.ssp .w = true)
  (hpc : readable s (s.ctx.ssp + 2#32) .l = true) (hfw : readable s (s.ctx.ssp + 6#32) .w = true)
include hs hsr hpc hfw

/-- RTE after its three reads, as a function of the size of the frame. -/
theorem opRte_reads : ∃ body : M Flow, opRte s = runInstr 1 body s ∧
    body s = (match frameSize (s.readAt (s.ctx.ssp + 6#32).toNat .w) with
      | none => M.raise .formatError
      | some size => do
        setSp (s.ctx.ssp + size)
        writeSr ((s.readAt s.ctx.ssp.toNat .w).setWidth 16)
        return .goto (s.readAt (s.ctx.ssp + 2#32).toNat .l) : M Flow) s.flush := by
  refine ⟨_, rfl, ?_⟩
  rw [M_bind_ok (requireSupervisor_run hs), M_bind_ok (flushPipeline_run s), M_bind_ok (getSp_run _), State.flush_ctx,
    Ctx.sp_supervisor hs, M_bind_ok (memRead_run (s := s.flush) hsr), M_bind_ok (memRead_run (s := s.flush) hpc),
    M_bind_ok (memRead_run (s := s.flush) hfw)]
  rfl

section

variable {size : Long} (hsize : frameSize (s.readAt (s.ctx.ssp + 6#32).toNat .w) = some size)
include hsize

/-- RTE of a format it knows, with a status word that TRACE_POLICY lets it write. -/
theorem opRte_completes (hw : srWritable s ((s.readAt s.ctx.ssp.toNat .w).setWidth 16) = true) :
    ∃ t, opRte s = complete 1 s t (.goto (s.returned size).ctx.pc) ∧
      t.withPc (s.returned size).ctx.pc = s.returned size := by
  obtain ⟨body, hexec, hbody⟩ := opRte_reads hs hsr hpc hfw
  rw [hsize] at hbody
  have hrun : body s = .ok (.goto (s.readAt (s.ctx.ssp + 2#32).toNat .l))
      ((s.flush.withSp (s.ctx.ssp + size)).withSr ((s.readAt s.ctx.ssp.toNat .w).setWidth 16)) :=
    hbody.trans ((M_bind_ok (setSp_run _ _) _).trans (M_bind_ok (writeSr_run (s := s.flush.withSp _) hw) _))
  rw [State.returned, State.ctx_withCtx]
  refine ⟨_, hexec.trans (runInstr_completes hrun), ?_⟩
  simp [State.withPc, State.withSr, State.withSp, Ctx.withSp_supervisor hs]

theorem opRte_traceBits (hw : srWritable s ((s.readAt s.ctx.ssp.toNat .w).setWidth 16) = false) :
    opRte s = .refused .traceBits := by
  obtain ⟨body, hexec, hbody⟩ := opRte_reads hs hsr hpc hfw
  rw [hsize] at hbody
  rw [hexec]
  exact runInstr_refused (hbody.trans ((M_bind_ok (setSp_run _ _) _).trans (M_bind_error (writeSr_stop (s := s.flush.withSp _) hw) _)))

end

theorem opRte_formatError (hsize : frameSize (s.readAt (s.ctx.ssp + 6#32).toNat .w) = none)
    (hentry : entryReady s s.params.vec.formatError false = true) :
    opRte s = .next (s.entered s.params.vec.formatError s.ctx.pc none none) := by
  obtain ⟨body, hexec, hbody⟩ := opRte_reads hs hsr hpc hfw
  rw [hsize] at hbody
  rw [hexec]
  exact (runInstr_exc hbody).trans (takeEntry_run hentry)

end

/-- Settles O49: a known format completes by `opRte_completes`, any other traps. -/
theorem rteForms : Obligations.RteForms := by
  intro s hu hs sp hsr hpc hfw sr pc format
  refine ⟨fun row hrow hformat => ?_, fun h0 h2 hentry => ?_⟩
  · have hsize := frameSize_known s _ row hrow hformat
    refine ⟨fun hw => ?_, opRte_traceBits hs hsr hpc hfw hsize⟩
    obtain ⟨t, hexec, ht⟩ := opRte_completes hs hsr hpc hfw hsize hw
    exact hexec.trans ((complete_run hu 1 t _).trans (congrArg Host.Outcome.next ht))
  · exact opRte_formatError hs hsr hpc hfw (frameSize_unknown h0 h2) hentry

/-! ### STOP, LPSTOP, SLEEP, RESET (R395 to R398) -/

section

variable {s : State}

theorem tracedStop_of_untraced (hu : untraced s = true) : tracedStop s = false := by
  unfold untraced at hu
  unfold tracedStop
  cases hp : s.params.tracePolicy <;> simp_all

/-- The stop of every context and a change of the pc may be exchanged. -/
theorem State.stopAll_withPc (s : State) (v : Long) : s.stopAll.withPc v = (s.withPc v).stopAll := by
  have cut : s.stopAll.ctx = if s.ctx.run = .ready then { s.ctx with run := .notReady } else s.ctx :=
    Vector.getElem_map _ _
  unfold State.withPc
  rw [cut]
  simp only [State.withCtx, State.stopAll, Vector.map_set]
  congr 2
  split <;> rfl

/-- After STOP no context is READY, so the scheduler changes nothing (R395, log 29). -/
theorem reschedule_stopAll (s : State) : reschedule s.stopAll = s.stopAll := by
  refine reschedule_of_none (chooseCtx_eq_none_iff.2 fun j hj => ?_)
  simp only [State.stopAll, Vector.getElem_map] at hj
  split at hj
  · cases hj
  · next notReady => exact notReady hj

variable {imm : Word} (hs : srS s.ctx.sr = true)
include hs

section

variable (hf : fetchable s 0 1 = true)
include hf

/-- STOP after the load of SR, as a function of whether it is traced. -/
theorem opStop_loads (hw : srWritable s imm = true) : ∃ body : M Flow, opStop imm s = runInstr 2 body s ∧
    body s = (if tracedStop s then return .srWritten
      else do
        if s.cur = 0 then M.update State.stopAll else sleepCurrent
        return .srSleep : M Flow) (s.flush.withSr imm) := by
  refine ⟨_, rfl, ?_⟩
  rw [M_bind_ok (requireSupervisor_run hs), M_bind_ok (touchExt_run hf), M_bind_ok (flushPipeline_run s), M_bind_read]
  exact M_bind_ok (writeSr_run (s := s.flush) hw) _

theorem opStop_traceBits (hw : srWritable s imm = false) : opStop imm s = .refused .traceBits := by
  refine runInstr_refused (t := s.flush) ?_
  rw [M_bind_ok (requireSupervisor_run hs), M_bind_ok (touchExt_run hf), M_bind_ok (flushPipeline_run s), M_bind_read]
  exact M_bind_error (writeSr_stop (s := s.flush) hw) _

variable (hu : untraced s = true) (hw : srWritable s imm = true)
include hu hw

/-- STOP in MC0 stops every context and the CPU. -/
theorem opStop_master (hcur : s.cur = 0) : opStop imm s = .next (s.finished 2 (s.flush.withSr imm)).stopAll := by
  obtain ⟨body, hexec, hbody⟩ := opStop_loads hs hf hw
  rw [tracedStop_of_untraced hu, if_neg Bool.false_ne_true, if_pos hcur] at hbody
  rw [hexec, runInstr_ok (f := .srSleep) hu hbody]
  exact congrArg Host.Outcome.next ((congrArg reschedule (State.stopAll_withPc _ _)).trans (reschedule_stopAll _))

/-- STOP elsewhere makes its context NOT_READY. -/
theorem opStop_other (hcur : s.cur ≠ 0) :
    opStop imm s = .next (reschedule (s.finished 2 ((s.flush.withSr imm).withCtx
      { (s.flush.withSr imm).ctx with run := .notReady }))) := by
  obtain ⟨body, hexec, hbody⟩ := opStop_loads hs hf hw
  rw [tracedStop_of_untraced hu, if_neg Bool.false_ne_true, if_neg hcur] at hbody
  exact hexec.trans (runInstr_ok (f := .srSleep) hu hbody)

end

section

variable (hf : fetchable s 0 2 = true)
include hf

theorem opLpstop_fetches : ∃ body : M Flow, opLpstop imm s = runInstr 3 body s ∧
    body s = (do
      writeSr imm
      if s.cur = 0 then do
        M.update fun s => { s with cpu := .lpStopped }
        return .halt
      else do
        sleepCurrent
        return .srSleep : M Flow) s.flush := by
  obtain ⟨hf0, hf1⟩ := fetchable_split (m := 1) (n := 1) hf
  refine ⟨_, rfl, ?_⟩
  rw [M_bind_ok (touchExt_run hf0), M_bind_ok (requireSupervisor_run hs), M_bind_ok (touchExt_run hf1)]
  exact M_bind_ok (flushPipeline_run s) _

theorem opLpstop_traceBits (hw : srWritable s imm = false) : opLpstop imm s = .refused .traceBits := by
  obtain ⟨body, hexec, hbody⟩ := opLpstop_fetches (imm := imm) hs hf
  rw [hexec]
  exact runInstr_refused (hbody.trans (M_bind_error (writeSr_stop (s := s.flush) hw) _))

variable (hu : untraced s = true) (hw : srWritable s imm = true)
include hu hw

/-- LPSTOP in MC0 stops the CPU until reset and changes no run state. -/
theorem opLpstop_master (hcur : s.cur = 0) :
    opLpstop imm s = .next { s.finished 3 (s.flush.withSr imm) with cpu := .lpStopped } := by
  obtain ⟨body, hexec, hbody⟩ := opLpstop_fetches (imm := imm) hs hf
  rw [M_bind_ok (writeSr_run (s := s.flush) hw), if_pos hcur] at hbody
  exact hexec.trans (runInstr_ok (f := .halt) hu hbody)

theorem opLpstop_other (hcur : s.cur ≠ 0) :
    opLpstop imm s = .next (reschedule (s.finished 3 ((s.flush.withSr imm).withCtx
      { (s.flush.withSr imm).ctx with run := .notReady }))) := by
  obtain ⟨body, hexec, hbody⟩ := opLpstop_fetches (imm := imm) hs hf
  rw [M_bind_ok (writeSr_run (s := s.flush) hw), if_neg hcur] at hbody
  exact hexec.trans (runInstr_ok (f := .srSleep) hu hbody)

end

theorem opSleep_run (hu : untraced s = true) :
    opSleep s = .next (reschedule (s.finished 1 (s.flush.withCtx { s.flush.ctx with run := .notReady }))) := by
  refine runInstr_ok (f := .sleep) hu ?_
  rw [M_bind_ok (requireSupervisor_run hs), M_bind_ok (flushPipeline_run s)]
  rfl

theorem opReset_run (hu : untraced s = true) : opReset s = .next (s.finished 1 s.flush) := by
  refine runInstr_next hu ?_
  rw [M_bind_ok (requireSupervisor_run hs), M_bind_ok (flushPipeline_run s)]
  rfl

end

/-- Settles O50: each form by its own equation above. -/
theorem waitForms : Obligations.WaitForms := by
  intro s imm hu hs asleep
  exact ⟨fun hf hw => ⟨opStop_master hs hf hu hw, opStop_other hs hf hu hw⟩,
    fun hf hw => ⟨opLpstop_master hs hf hu hw, opLpstop_other hs hf hu hw⟩, opStop_traceBits hs, opLpstop_traceBits hs,
    opSleep_run hs hu, opReset_run hs hu⟩

/-! ### Tracing (R475) -/

section

variable {s t : State} {words : Nat} {f : Flow}

theorem traceAction_t1 (hp : s.params.tracePolicy = .cpu32) (h1 : srT1 s.ctx.sr = true) (h0 : srT0 s.ctx.sr = false)
    (b : Bool) : traceAction s.params s.ctx.sr b = .trap := by
  simp only [traceAction, hp, h1, h0]

/-- T0 alone traces a change of program flow. -/
theorem traceAction_t0 (hp : s.params.tracePolicy = .cpu32) (h1 : srT1 s.ctx.sr = false) (h0 : srT0 s.ctx.sr = true)
    (b : Bool) : traceAction s.params s.ctx.sr b = if b then .trap else .none := by
  simp only [traceAction, hp, h1, h0]

theorem traceAction_both (hp : s.params.tracePolicy = .cpu32) (h1 : srT1 s.ctx.sr = true) (h0 : srT0 s.ctx.sr = true)
    (b : Bool) : traceAction s.params s.ctx.sr b = .refuse := by
  simp only [traceAction, hp, h1, h0]

/-- Either bit alone traces a change of program flow. -/
theorem traceAction_either (hp : s.params.tracePolicy = .cpu32) (h : srT1 s.ctx.sr ≠ srT0 s.ctx.sr) :
    traceAction s.params s.ctx.sr true = .trap := by
  cases h1 : srT1 s.ctx.sr with
  | true => exact traceAction_t1 hp h1 (Bool.eq_false_iff.2 fun e => h (h1.trans e.symm)) true
  | false => exact traceAction_t0 hp h1 (Bool.eq_true_of_not_eq_false fun e => h (h1.trans e.symm)) true

/-- A traced instruction is followed by the trace exception, with its own address in the frame. -/
theorem complete_trapped (hf : f ≠ .halt) (htrace : traceAction s.params s.ctx.sr f.changesFlow = .trap)
    (hentry : entryReady (t.withPc (f.target (s.after words))) s.params.vec.trace true = true) :
    complete words s t f = .next (f.settle ((t.withPc (f.target (s.after words))).entered s.params.vec.trace
      (f.target (s.after words)) (some s.ctx.pc) none)) := by
  have entered := takeEntry_run (spc := f.target (s.after words)) (ipc := some s.ctx.pc) (level := none) hentry
  unfold complete
  rw [if_neg hf, htrace]
  simp only [State.after, State.withPc] at entered ⊢
  rw [entered]

theorem complete_refused (hf : f ≠ .halt) (htrace : traceAction s.params s.ctx.sr f.changesFlow = .refuse) :
    complete words s t f = .refused .traceBits := by
  unfold complete
  rw [if_neg hf, htrace]

theorem complete_untraced (hf : f ≠ .halt) (htrace : traceAction s.params s.ctx.sr f.changesFlow = .none) :
    complete words s t f = .next (f.settle (t.withPc (f.target (s.after words)))) := by
  unfold complete
  rw [if_neg hf, htrace]
  rfl

theorem opNop_completes (s : State) : opNop s = complete 1 s s.flush .next := runInstr_completes rfl

theorem opBra_byte_completes (s : State) (d : Byte) :
    opBra (.byte d) s = complete 1 s s (.goto (s.ctx.pc + 2#32 + d.signExtend 32)) := runInstr_completes rfl

/-- Under TRACE_POLICY = cpu32 SR may be written with trace bits. -/
theorem srWritable_of_cpu32 (hp : s.params.tracePolicy = .cpu32) (v : Word) : srWritable s v = true := by
  simp only [srWritable, hp]
  rfl

theorem tracedStop_of_either (hp : s.params.tracePolicy = .cpu32) (h : srT1 s.ctx.sr ≠ srT0 s.ctx.sr) :
    tracedStop s = true := by
  simp only [tracedStop, hp, srTraced, decide_true, Bool.true_and]
  revert h
  cases srT1 s.ctx.sr <;> cases srT0 s.ctx.sr <;> decide

/-- A STOP that began traced does not stop (R475). -/
theorem opStop_traced {imm : Word} (hp : s.params.tracePolicy = .cpu32) (hs : srS s.ctx.sr = true)
    (h : srT1 s.ctx.sr ≠ srT0 s.ctx.sr) (hf : fetchable s 0 1 = true) :
    opStop imm s = complete 2 s (s.flush.withSr imm) .srWritten := by
  obtain ⟨body, hexec, hbody⟩ := opStop_loads hs hf (srWritable_of_cpu32 hp imm)
  rw [tracedStop_of_either hp h, if_pos rfl] at hbody
  exact hexec.trans (runInstr_completes hbody)

end

/-- Settles O56: how each instruction completes, and what `complete` then does under each setting of T1 and T0. -/
theorem traceAfterInstruction : Obligations.TraceAfterInstruction := by
  refine ⟨fun s d hp => ⟨fun h1 h0 hentry => ?_, fun h1 h0 => ⟨?_, fun hentry => ?_⟩, fun h1 h0 => ?_⟩,
    fun s imm hp hs h => ⟨fun hf hentry => ?_, fun hsr hpc hfw row hrow hformat hentry => ?_⟩⟩
  · exact (opNop_completes s).trans (complete_trapped (by decide) (traceAction_t1 hp h1 h0 _) hentry)
  · exact (opNop_completes s).trans (complete_untraced (by decide) (traceAction_t0 hp h1 h0 _))
  · rw [State.withPc_ctx]
    exact (opBra_byte_completes s d).trans (complete_trapped Flow.noConfusion (traceAction_t0 hp h1 h0 _) hentry)
  · exact (opNop_completes s).trans (complete_refused (by decide) (traceAction_both hp h1 h0 _))
  · exact (opStop_traced hp hs h hf).trans (complete_trapped (by decide) (traceAction_either hp h) hentry)
  · obtain ⟨t, hexec, ht⟩ := opRte_completes hs hsr hpc hfw (frameSize_known s _ row hrow hformat)
      (srWritable_of_cpu32 hp _)
    have trapped := complete_trapped (s := s) (t := t) (words := 1) (f := .goto (s.returned row.2).ctx.pc)
      Flow.noConfusion (traceAction_either hp h) ((congrArg (entryReady · _ true) ht).trans hentry)
    refine hexec.trans (trapped.trans ?_)
    exact congrArg (fun u : State => Host.Outcome.next (u.entered _ _ _ _)) ht

end Sys2Proof.Machine

/-! ## Trapping instructions (49_trapping.md R421, R422, R424 to R430) -/

namespace Sys2Proof.Machine

/-! ### CHK (R422) -/

section

variable {s : State} {sz : Size} {src : EA}

/-- A flush draws no free value. -/
theorem State.flush_freeBit (s : State) (k : Nat) : s.flush.freeBit k = s.freeBit k := rfl

/-- The state in which CHK ends after `k` draws: the operand's update made, the pipeline flushed, Z, V and C free, N as
given, X kept. -/
def State.checked (s : State) (p : Place) (k : Nat) (n : Bool) : State :=
  ((s.bump p).flush.drew k).withCcr
    { x := s.ctx.ccr.x, n := n, z := s.freeBit 0, v := s.freeBit 1, c := s.freeBit 2 }

variable (hsrc : sourceReady s src sz 0 = true) (r : BitVec 3)
include hsrc

/-- CHK after its read and its three draws, as a function of the comparison. -/
theorem opChk_compares : ∃ body : M Flow, opChk sz r src s = runInstr (1 + src.extWords sz) body s ∧
    body s =
      if signedOf sz (s.ctx.getD r) < 0 then .error (.exc .chk) (s.checked (placeOf s src sz 0) 3 true)
      else if signedOf sz (valueAt s sz (placeOf s src sz 0).loc) < signedOf sz (s.ctx.getD r) then
        .error (.exc .chk) (s.checked (placeOf s src sz 0) 3 false)
      else .ok .next (s.checked (placeOf s src sz 0) 4 (s.freeBit 3)) := by
  refine ⟨_, rfl, ?_⟩
  rw [M_bind_ok (readEA_run hsrc), M_bind_ok (flushPipeline_run _), M_bind_ok (getD_run _ _), M_bind_ok (getCcr_run _),
    M_bind_ok (drawBit_run _), M_bind_ok (drawBit_run _), M_bind_ok (drawBit_run _), State.flush_ctx, State.bump_getD,
    State.bump_ccr]
  simp only [State.flush_freeBit, State.freeBit_drew, State.bump_freeBit, State.drew_drew]
  split
  · rfl
  · split
    · rfl
    · rw [M_bind_ok (drawBit_run _), State.freeBit_drew, State.flush_freeBit, State.bump_freeBit, State.drew_drew]
      rfl

theorem opChk_inside (hu : untraced s = true) (hlo : 0 ≤ signedOf sz (s.ctx.getD r))
    (hhi : signedOf sz (s.ctx.getD r) ≤ signedOf sz (valueAt s sz (placeOf s src sz 0).loc)) :
    opChk sz r src s =
      .next (s.finished (1 + src.extWords sz) (s.checked (placeOf s src sz 0) 4 (s.freeBit 3))) := by
  obtain ⟨body, hexec, hbody⟩ := opChk_compares hsrc r
  rw [if_neg (Int.not_lt.2 hlo), if_neg (Int.not_lt.2 hhi)] at hbody
  exact hexec.trans (runInstr_next hu hbody)

theorem opChk_outside (n : Bool)
    (hout : if n then signedOf sz (s.ctx.getD r) < 0
      else 0 ≤ signedOf sz (s.ctx.getD r) ∧
        signedOf sz (valueAt s sz (placeOf s src sz 0).loc) < signedOf sz (s.ctx.getD r))
    (hentry : entryReady (s.checked (placeOf s src sz 0) 3 n) 6#8 true = true) :
    opChk sz r src s = .next ((s.checked (placeOf s src sz 0) 3 n).entered 6#8 (s.after (1 + src.extWords sz))
      (some s.ctx.pc) none) := by
  obtain ⟨body, hexec, hbody⟩ := opChk_compares hsrc r
  have raises : body s = .error (.exc .chk) (s.checked (placeOf s src sz 0) 3 n) := by
    cases n with
    | true =>
      rw [hbody, if_pos (by simpa using hout)]
    | false =>
      obtain ⟨hlo, hhi⟩ := hout
      rw [hbody, if_neg (Int.not_lt.2 hlo), if_pos hhi]
  exact hexec.trans ((runInstr_exc raises).trans (takeEntry_run (ipc := some s.ctx.pc) hentry))

end

/-- Settles O52: both sizes by `opChk_inside` and `opChk_outside`. -/
theorem checkForms : Obligations.CheckForms := by
  intro s r src hu
  simp only [List.forall_mem_cons, List.not_mem_nil, false_implies, implies_true, and_true]
  exact ⟨fun hsrc => ⟨opChk_inside hsrc r hu, opChk_outside hsrc r⟩,
    fun hsrc => ⟨opChk_inside hsrc r hu, opChk_outside hsrc r⟩⟩

/-! ### ILLEGAL, TRAP, BGND, BKPT (R421, R424, R429, R430) -/

section

variable {s : State}

theorem trapVector (v : BitVec 4) : 2#4 ++ v = BitVec.ofNat 8 (32 + v.toNat) := by revert v; decide

theorem trapxVector (v : BitVec 4) : 6#4 ++ v = BitVec.ofNat 8 (96 + v.toNat) := by revert v; decide

theorem exec_illegal (hentry : entryReady s s.params.vec.illegal false = true) :
    exec .illegal s = .next (s.entered s.params.vec.illegal s.ctx.pc none none) := takeEntry_run hentry

theorem exec_trap {v : BitVec 4} (hentry : entryReady s (2#4 ++ v) false = true) :
    exec (.trap v) s = .next (s.entered (2#4 ++ v) (s.ctx.pc + 2#32) none none) := takeEntry_run hentry

theorem exec_bgnd (hentry : entryReady s 12#8 true = true) :
    exec .bgnd s = .next (s.entered 12#8 (s.ctx.pc + 2#32) (some s.ctx.pc) none) :=
  takeEntry_run (ipc := some s.ctx.pc) hentry

/-- With the BKPT bit clear BKPT is a NOP. -/
theorem opBkpt_clear (hu : untraced s = true) (hd : s.params.dcrBkpt = false) :
    opBkpt s = .next (s.finished 1 s.flush) := by
  refine runInstr_next hu ?_
  rw [M_bind_ok (flushPipeline_run s), if_pos (by simp [hd])]
  rfl

theorem opBkpt_traps (hd : s.params.dcrBkpt = true) (hj : s.params.jtagBkptMode = false)
    (hentry : entryReady s 12#8 false = true) : opBkpt s = .next (s.entered 12#8 s.ctx.pc none none) := by
  refine (runInstr_exc (e := .breakpoint) (t := s.flush) ?_).trans (takeEntry_run hentry)
  rw [M_bind_ok (flushPipeline_run s), if_neg (by simp [hd]), if_pos (by simp [hj])]
  rfl

theorem opBkpt_halts (hu : untraced s = true) (hd : s.params.dcrBkpt = true) (hj : s.params.jtagBkptMode = true) :
    opBkpt s = .next (reschedule (s.flush.withCtx
      { s.ctx with jtagHalt := true, run := .halted, pc := s.ctx.pc + 2#32 })) := by
  refine (runInstr_ok (f := .sleep) (t := s.flush.withCtx { s.ctx with jtagHalt := true, run := .halted }) hu ?_).trans ?_
  · rw [M_bind_ok (flushPipeline_run s), if_neg (by simp [hd]), if_neg (by simp [hj])]
    rfl
  · rw [State.withPc, State.withCtx_withCtx, State.ctx_withCtx]
    rfl

/-! ### TRAPcc, TRAPV (R425 to R427) -/

theorem opTrapcc_untaken {cc : BitVec 4} (hu : untraced s = true) (hc : Machine.cond cc s.ctx.ccr = false) (words : Nat) :
    opTrapcc words cc s = .next (s.finished words s.flush) := by
  refine runInstr_next hu ?_
  rw [M_bind_ok (flushPipeline_run s), M_bind_ok (getCcr_run _), if_neg (by simp [hc])]
  rfl

theorem opTrapcc_taken {cc : BitVec 4} (hc : Machine.cond cc s.ctx.ccr = true) (words : Nat)
    (hentry : entryReady s 7#8 true = true) :
    opTrapcc words cc s = .next (s.flush.entered 7#8 (s.after words) (some s.ctx.pc) none) := by
  refine (runInstr_exc (e := .trapcc) (t := s.flush) ?_).trans (takeEntry_run (ipc := some s.ctx.pc) hentry)
  rw [M_bind_ok (flushPipeline_run s), M_bind_ok (getCcr_run _), if_pos (by simp [hc])]
  rfl

theorem opTrapv_untaken (hu : untraced s = true) (hv : s.ctx.ccr.v = false) :
    opTrapv s = .next (s.finished 1 s.flush) := by
  refine runInstr_next hu ?_
  rw [M_bind_ok (flushPipeline_run s), M_bind_ok (getCcr_run _), if_neg (by simp [hv])]
  rfl

theorem opTrapv_taken (hv : s.ctx.ccr.v = true) (hentry : entryReady s 7#8 true = true) :
    opTrapv s = .next (s.flush.entered 7#8 (s.after 1) (some s.ctx.pc) none) := by
  refine (runInstr_exc (e := .trapcc) (t := s.flush) ?_).trans (takeEntry_run (ipc := some s.ctx.pc) hentry)
  rw [M_bind_ok (flushPipeline_run s), M_bind_ok (getCcr_run _), if_pos (by simp [hv])]
  rfl

end

/-- Settles O53: each form by its own equations above. -/
theorem trapForms : Obligations.TrapForms := by
  refine ⟨fun s v b => ⟨exec_illegal, fun hentry => ?_, exec_bgnd, opBkpt_clear, opBkpt_traps, opBkpt_halts⟩,
    fun s cc w l => ?_⟩
  · rw [← trapVector] at hentry ⊢
    exact exec_trap hentry
  · simp only [List.forall_mem_cons, List.not_mem_nil, false_implies, implies_true, and_true]
    exact ⟨⟨fun hc hu => opTrapcc_untaken hu hc 2, fun hc => opTrapcc_taken hc 2⟩,
      ⟨fun hc hu => opTrapcc_untaken hu hc 3, fun hc => opTrapcc_taken hc 3⟩,
      ⟨fun hc hu => opTrapcc_untaken hu hc 1, fun hc => opTrapcc_taken hc 1⟩,
      fun hv hu => opTrapv_untaken hu hv, opTrapv_taken⟩

/-! ### TRAPX (R428) -/

section

variable {s : State} {v : BitVec 4}

theorem opTrapx_framed (hstd : s.params.stdIntMode[0] = true)
    (hentry : entryReady (trapxSwitch s) (6#4 ++ v) false = true) :
    opTrapx v s = .next ((trapxSwitch s).entered (6#4 ++ v) (trapxSwitch s).ctx.pc none none) := by
  unfold opTrapx
  rw [if_pos hstd]
  exact takeEntry_run hentry

theorem opTrapx_unframed (hstd : s.params.stdIntMode[0] = false)
    (hread : readable (trapxSwitch s) (vectorAddr (trapxSwitch s) (6#4 ++ v)) .l = true) :
    opTrapx v s = .next ((trapxSwitch s).withPc
      (s.readAt (vectorAddr (trapxSwitch s) (6#4 ++ v)).toNat .l)) := by
  have jump : (do setPc (← readVector (6#4 ++ v)) : M Unit) (trapxSwitch s) = .ok () ((trapxSwitch s).withPc
      (s.readAt (vectorAddr (trapxSwitch s) (6#4 ++ v)).toNat .l)) := M_bind_ok (readVector_run hread) _
  unfold opTrapx
  dsimp only
  rw [if_neg (by simp [hstd]), jump]

end

/-- Settles O54: the caller's side is `trapxSwitch`; MC0's by the two equations above. -/
theorem trapxForms : Obligations.TrapxForms := by
  intro s v
  dsimp only
  rw [← trapxVector]
  exact ⟨opTrapx_framed, opTrapx_unframed⟩

end Sys2Proof.Machine

/-! ## The frame of an exception (60_exceptions.md R455, R456, R460, R461, R463)

An entry pushes a list of operands downward and then reads its vector. Where the pushes go, what they leave in memory
and what stops them is said of any such list, by induction. -/

namespace Sys2Proof.Machine

/-- The operands of the pushes, the first highest in memory: each one's size and value. -/
abbrev PushList : Type := List (Size × Long)

/-- Where each push goes, from a stack pointer `a` downward. -/
def pushSlots (a : Long) : PushList → List (Long × Size × Long)
  | [] => []
  | (sz, v) :: l => (a - stepOf sz, sz, v) :: pushSlots (a - stepOf sz) l

/-- The bytes the pushes take. -/
def pushBytes (l : PushList) : Nat := (l.map fun x => x.1.bytes).sum

/-- The pushes, then the rest of a computation. -/
def pushThen (l : PushList) (rest : M Unit) : M Unit :=
  match l with
  | [] => rest
  | (sz, v) :: l => do
    push sz v
    pushThen l rest

/-- The state the pushes leave. -/
def State.pushedAll (s : State) : PushList → State
  | [] => s
  | (sz, v) :: l => (s.pushed sz v).pushedAll l

/-! ### Which push stops, and what the pushes change -/

section

variable {s : State} {l : PushList} {rest : M Unit}

theorem pushThen_run (h : ∀ q ∈ pushSlots s.ctx.sp l, writable s q.1 q.2.1 = true) :
    pushThen l rest s = rest (s.pushedAll l) := by
  induction l generalizing s with
  | nil => rfl
  | cons x l ih =>
    obtain ⟨hfirst, hothers⟩ := List.forall_mem_cons.1 h
    rw [pushThen, M_bind_ok (push_run hfirst _)]
    refine ih fun q hq => ?_
    rw [State.pushed_ctx, Ctx.sp_withSp] at hq
    rw [writable_congr (State.pushed_params s x.1 x.2)]
    exact hothers q hq

/-- The first push that cannot be made ends the entry. -/
theorem pushThen_stop {n : Nat} {q : Long × Size × Long} {e : Stop} (hq : (pushSlots s.ctx.sp l)[n]? = some q)
    (h : ∀ p ∈ (pushSlots s.ctx.sp l).take n, writable s p.1 p.2.1 = true)
    (he : writeCheck s.params q.1 q.2.1 = some e) : ∃ t, pushThen l rest s = .error e t := by
  induction l generalizing s n with
  | nil => cases hq
  | cons x l ih =>
    cases n with
    | zero =>
      cases hq
      exact ⟨_, M_bind_error (push_stop he _) _⟩
    | succ n =>
      obtain ⟨hfirst, hothers⟩ := List.forall_mem_cons.1 h
      rw [pushThen, M_bind_ok (push_run hfirst _)]
      have moved : (s.pushed x.1 x.2).ctx.sp = s.ctx.sp - stepOf x.1 := by rw [State.pushed_ctx, Ctx.sp_withSp]
      refine ih (by rw [moved]; exact hq) (fun p hp => ?_) (by rwa [State.pushed_params])
      rw [moved] at hp
      rw [writable_congr (State.pushed_params s x.1 x.2)]
      exact hothers p hp

@[simp] theorem State.pushedAll_params (s : State) (l : PushList) : (s.pushedAll l).params = s.params := by
  induction l generalizing s with
  | nil => rfl
  | cons x l ih => rw [State.pushedAll, ih, State.pushed_params]

theorem State.pushed_mem (s : State) (sz : Size) (v : Long) :
    (s.pushed sz v).mem = (s.wrote (s.ctx.sp - stepOf sz) sz v).mem := rfl

/-- The stack pointer below the pushes. -/
def spBelow (a : Long) : PushList → Long
  | [] => a
  | (sz, _) :: l => spBelow (a - stepOf sz) l

/-- The pushes move SP and nothing else of the context. -/
theorem State.pushedAll_ctx (s : State) (l : PushList) :
    (s.pushedAll l).ctx = s.ctx.withSp (spBelow s.ctx.sp l) := by
  induction l generalizing s with
  | nil => exact (Ctx.withSp_self _).symm
  | cons x l ih => rw [State.pushedAll, ih, State.pushed_ctx, Ctx.withSp_withSp, Ctx.sp_withSp, spBelow]

end

/-! ### What the pushes leave in memory -/

theorem toNat_sub_stepOf {a : Long} {sz : Size} (h : sz.bytes ≤ a.toNat) : (a - stepOf sz).toNat = a.toNat - sz.bytes := by
  have small : sz.bytes < 2 ^ 32 := by cases sz <;> decide
  have step : (stepOf sz).toNat = sz.bytes := by rw [stepOf, BitVec.toNat_ofNat, Nat.mod_eq_of_lt small]
  rw [BitVec.toNat_sub_of_le (BitVec.le_def.2 (by rwa [step])), step]

/-- A read depends on the bytes it reads. -/
theorem State.readAt_of_bytes {s t : State} {a : Nat} {sz : Size}
    (h : ∀ j < sz.bytes, t.byteAt (a + j) = s.byteAt (a + j)) : t.readAt a sz = s.readAt a sz := by
  have h0 := h 0 (by cases sz <;> decide)
  rw [Nat.add_zero] at h0
  cases sz with
  | b => rw [State.readAt, State.readAt, h0]
  | w => rw [State.readAt, State.readAt, h0, h 1 (by decide)]
  | l => rw [State.readAt, State.readAt, h0, h 1 (by decide), h 2 (by decide), h 3 (by decide)]

section

variable {s : State} {l : PushList}

/-- Cells that no byte of a push reaches hold what they held. -/
theorem State.pushedAll_get_other (hl : pushBytes l ≤ s.ctx.sp.toNat) {b : Nat}
    (hb : ∀ j < pushBytes l, b ≠ busAddr s.params (s.ctx.sp.toNat - pushBytes l + j)) :
    (s.pushedAll l).mem.get b = s.mem.get b := by
  induction l generalizing s with
  | nil => rfl
  | cons x l ih =>
    have total : pushBytes (x :: l) = x.1.bytes + pushBytes l := rfl
    have slot : (s.ctx.sp - stepOf x.1).toNat = s.ctx.sp.toNat - x.1.bytes := toNat_sub_stepOf (by omega)
    have moved : (s.pushed x.1 x.2).ctx.sp = s.ctx.sp - stepOf x.1 := by rw [State.pushed_ctx, Ctx.sp_withSp]
    rw [State.pushedAll, ih (by rw [moved, slot]; omega), State.pushed_mem]
    · refine State.wrote_get_other _ _ _ _ fun j hj => ?_
      have := hb (pushBytes l + j) (by omega)
      rwa [slot, show s.ctx.sp.toNat - x.1.bytes + j = s.ctx.sp.toNat - pushBytes (x :: l) + (pushBytes l + j) by omega]
    · intro j hj
      have := hb j (by omega)
      rwa [State.pushed_params, moved, slot,
        show s.ctx.sp.toNat - x.1.bytes - pushBytes l + j = s.ctx.sp.toNat - pushBytes (x :: l) + j by omega]

/-- Each operand reads back from its slot, where ADDR_BITS tells the bytes of all of them apart. -/
theorem State.pushedAll_readAt (hl : pushBytes l ≤ s.ctx.sp.toNat) (hbits : pushBytes l ≤ 2 ^ s.params.addrBits)
    (hrom : ∀ j < pushBytes l, kindAt s.params (s.ctx.sp.toNat - pushBytes l + j) ≠ .rom) :
    ∀ q ∈ pushSlots s.ctx.sp l, (s.pushedAll l).readAt q.1.toNat q.2.1 = trunc q.2.1 q.2.2 := by
  induction l generalizing s with
  | nil => exact fun _ hq => nomatch hq
  | cons x l ih =>
    have total : pushBytes (x :: l) = x.1.bytes + pushBytes l := rfl
    have slot : (s.ctx.sp - stepOf x.1).toNat = s.ctx.sp.toNat - x.1.bytes := toNat_sub_stepOf (by omega)
    have moved : (s.pushed x.1 x.2).ctx.sp = s.ctx.sp - stepOf x.1 := by rw [State.pushed_ctx, Ctx.sp_withSp]
    refine List.forall_mem_cons.2 ⟨?_, fun q hq => ?_⟩
    · have written := State.wrote_read s (s.ctx.sp - stepOf x.1) x.1 x.2 (by omega) fun j hj => by
        rw [slot, show s.ctx.sp.toNat - x.1.bytes + j = s.ctx.sp.toNat - pushBytes (x :: l) + (pushBytes l + j) by omega]
        exact hrom _ (by omega)
      refine Eq.trans (State.readAt_of_bytes (s := s.pushed x.1 x.2) fun j hj => ?_) written
      rw [State.byteAt, State.byteAt, State.pushedAll, State.pushedAll_params]
      have hj : j < x.1.bytes := hj
      refine State.pushedAll_get_other (by rw [moved, slot]; omega) fun i hi => ?_
      rw [moved, slot,
        show s.ctx.sp.toNat - x.1.bytes + j = s.ctx.sp.toNat - x.1.bytes - pushBytes l + (pushBytes l + j) by omega]
      rw [State.pushed_params]
      exact busAddr_ne (by omega) (by omega) (by omega)
    · rw [← moved] at hq
      refine ih (by rw [moved, slot]; omega) (by rw [State.pushed_params]; omega) (fun j hj => ?_) q hq
      rw [State.pushed_params, moved, slot,
        show s.ctx.sp.toNat - x.1.bytes - pushBytes l + j = s.ctx.sp.toNat - pushBytes (x :: l) + j by omega]
      exact hrom j (by omega)

end

/-! ### The pushes of an entry (R455, R456) -/

/-- The operands an entry pushes. -/
def framePushes (s : State) (k : Byte) (spc : Long) (ipc : Option Long) : PushList :=
  (ipc.toList.map fun a => (.l, a)) ++
    [(.w, (formatWord ipc.isSome k).setWidth 32), (.l, spc), (.w, s.srWord.setWidth 32)]

section

variable {s : State} {k : Byte} {spc : Long} {ipc : Option Long} {level : Option (BitVec 3)}

theorem enterException_eq (s : State) (k : Byte) (spc : Long) (ipc : Option Long) (level : Option (BitVec 3)) :
    enterException k spc ipc level s =
      pushThen (framePushes s k spc ipc) (do setPc (← readVector k)) (s.entering level) := by
  cases ipc <;> rfl

theorem State.framed_eq (s : State) (k : Byte) (spc : Long) (ipc : Option Long) (level : Option (BitVec 3)) :
    s.framed k spc ipc level = (s.entering level).pushedAll (framePushes s k spc ipc) := by
  cases ipc <;> rfl

/-- Entry pushes on the supervisor stack, whatever mode it begins in. -/
theorem State.entering_sp (s : State) (level : Option (BitVec 3)) : (s.entering level).ctx.sp = s.ctx.ssp := by
  rw [State.entering_ctx]
  exact Ctx.sp_supervisor (c := { s.ctx with sr := srForEntry s.ctx.sr level }) (srS_srForEntry _ _)

/-- An access of the entry that faults, or the read of the vector after the pushes, ends in the double fault (R463). -/
theorem takeEntry_doubleFault {e : Exc} {entry : M Unit} (h : ∃ t, entry s = .error (.exc e) t) :
    ∃ t, takeEntry entry s = .next t ∧ t.mark = .doubleFault := by
  obtain ⟨t, ht⟩ := h
  exact ⟨_, by rw [takeEntry, ht], rfl⟩

/-- Where the pushes of an entry go: below the push of the instruction address, where there is one. -/
theorem pushSlots_framePushes (s : State) (k : Byte) (spc : Long) (ipc : Option Long) (a : Long) :
    (pushSlots a (framePushes s k spc ipc)).map (fun q => (q.1, q.2.1)) =
      let top := if ipc.isSome then a - 4#32 else a
      (if ipc.isSome then [(top, Size.l)] else []) ++ [(top - 2#32, .w), (top - 6#32, .l), (top - 8#32, .w)] := by
  cases ipc <;>
    simp [framePushes, pushSlots, stepOf, Size.bytes, BitVec.sub_sub]

/-- In which state the entry's pushes begin does not matter to whether they can be made. -/
theorem entryPushes_stop {n : Nat} {p : Long × Size} {e : Exc}
    (hp : ((pushSlots s.ctx.ssp (framePushes s k spc ipc)).map fun q => (q.1, q.2.1))[n]? = some p)
    (h : ∀ q ∈ ((pushSlots s.ctx.ssp (framePushes s k spc ipc)).map fun q => (q.1, q.2.1)).take n,
      writable s q.1 q.2 = true)
    (he : writeCheck s.params p.1 p.2 = some (.exc e)) :
    ∃ t, enterException k spc ipc level s = .error (.exc e) t := by
  rw [List.getElem?_map, Option.map_eq_some_iff] at hp
  obtain ⟨q, hq, rfl⟩ := hp
  rw [← List.map_take, List.forall_mem_map] at h
  rw [← State.entering_sp s level] at hq h
  rw [enterException_eq]
  exact pushThen_stop hq h he

/-- After the pushes, a vector that cannot be read. -/
theorem entryVector_stop {e : Exc}
    (h : ∀ q ∈ (pushSlots s.ctx.ssp (framePushes s k spc ipc)).map fun q => (q.1, q.2.1), writable s q.1 q.2 = true)
    (he : accessCheck s.params (vectorAddr s k) .l = some (.exc e)) :
    ∃ t, enterException k spc ipc level s = .error (.exc e) t := by
  rw [List.forall_mem_map, ← State.entering_sp s level] at h
  rw [enterException_eq, pushThen_run h]
  have vbr : ((s.entering level).pushedAll (framePushes s k spc ipc)).ctx.vbr = s.ctx.vbr := by
    rw [State.pushedAll_ctx, Ctx.withSp_vbr, State.entering_ctx]
  refine ⟨(s.entering level).pushedAll (framePushes s k spc ipc), M_bind_error ?_ _⟩
  rw [readVector, M_bind_read, vbr]
  change memRead (vectorAddr s k) .l _ = _
  rw [memRead_cases, State.pushedAll_params, State.entering_params, he]

end

/-! ### Marks (R516) -/

theorem reschedule_mark (s : State) : (reschedule s).mark = s.mark := by
  unfold reschedule
  split
  · rfl
  · split <;> rfl

theorem applyEvent_mark (s : State) {e : HostEvent} (he : e ≠ .reset) : (applyEvent s e).mark = s.mark := by
  have woken : ∀ (u : State) (i : CtxId), (wakeCtx i u).mark = u.mark := fun u i => reschedule_mark _
  cases e with
  | reset => exact absurd rfl he
  | irq r => exact (congrArg State.mark (applyEvent_irq s r).1 : _)
  | dropIrq r => rfl
  | markReady i => exact iteInduction (motive := fun t : State => t.mark = s.mark) (fun _ => woken _ _) fun _ => rfl
  | clearJtagHalt i =>
    exact iteInduction (motive := fun t : State => t.mark = s.mark)
      (fun _ => iteInduction (motive := fun t : State => t.mark = s.mark) (fun _ => woken _ _) fun _ => rfl) fun _ => rfl
  | busWrite a v =>
    exact iteInduction (motive := fun t : State => t.mark = s.mark) (fun _ => State.storeByte_mark _ _ _) fun _ => rfl

theorem step_faulted {s : State} {kind : MemFault} {a pc : Long} (h : (deliver s).mark = .faulted kind a pc) :
    step s = .fault (.memory kind a pc) := by
  rw [step, advance, h]

theorem step_doubleFault {s : State} (h : (deliver s).mark = .doubleFault) : step s = .fault .doubleFault := by
  rw [step, advance, h]

/-- Settles O13: a mark by the first test of `advance`; a fault of an entry by the first push that stops, or by the
vector. -/
theorem marksStop : Obligations.MarksStop := by
  refine ⟨fun s kind a pc => step_faulted, fun s => step_doubleFault, fun s e => applyEvent_mark s,
    fun s k spc ipc level e => ?_⟩
  have slots := pushSlots_framePushes s k spc ipc s.ctx.ssp
  intro top pushes
  rw [show pushes = _ from slots.symm]
  exact ⟨fun n a sz hp h he => takeEntry_doubleFault (entryPushes_stop (p := (a, sz)) hp h he),
    fun h he => takeEntry_doubleFault (entryVector_stop h he)⟩

end Sys2Proof.Machine

/-! ## Exception entry and return (60_exceptions.md R452, R455, R456, R460, R461, 49_trapping.md R424) -/

namespace Sys2Proof.Machine

/-! ### SR at entry (R460) -/

section

variable (sr : Word) (level : Option (BitVec 3))

theorem srForEntry_bit (i : Nat) (hi : i < 16) :
    (srForEntry sr level).getLsbD i =
      if i = 15 ∨ i = 14 then false else if i = 13 then true
      else if 8 ≤ i ∧ i < 11 then (level.getD (srMask sr)).getLsbD (i - 8)
      else sr.getLsbD i := by
  cases level <;> interval_cases i <;> simp [srForEntry, srMask]

theorem srT1_srForEntry : srT1 (srForEntry sr level) = false := srForEntry_bit sr level 15 (by decide)

theorem srT0_srForEntry : srT0 (srForEntry sr level) = false := srForEntry_bit sr level 14 (by decide)

theorem srMask_srForEntry : srMask (srForEntry sr level) = level.getD (srMask sr) := by
  refine BitVec.eq_of_getLsbD_eq fun i hi => ?_
  rw [srMask, BitVec.getLsbD_extractLsb', srForEntry_bit sr level _ (by omega), if_neg (by omega), if_neg (by omega),
    if_pos (by omega), decide_eq_true hi, Bool.true_and, Nat.add_sub_cancel_left]

theorem ofWord_srForEntry : Ccr.ofWord (srForEntry sr level) = Ccr.ofWord sr := by
  have bit : ∀ i < 5, (srForEntry sr level).getLsbD i = sr.getLsbD i := fun i hi => by
    rw [srForEntry_bit sr level i (by omega), if_neg (by omega), if_neg (by omega), if_neg (by omega)]
  simp only [Ccr.ofWord, bit 0, bit 1, bit 2, bit 3, bit 4, Nat.reduceLT]

end

theorem formatWord_eq (six : Bool) (k : Byte) :
    (formatWord six k).setWidth 32 = (if six then 0x2000#32 else 0#32) ||| BitVec.ofNat 32 (4 * k.toNat) := by
  revert six k; decide

/-! ### What an entry leaves (R455, R456, R460) -/

/-- The bytes of a frame. -/
def frameBytes (ipc : Option Long) : Nat := if ipc.isSome then 12 else 8

section

variable {s : State} {k : Byte} {spc : Long} {ipc : Option Long} {level : Option (BitVec 3)}

theorem pushBytes_framePushes : pushBytes (framePushes s k spc ipc) = frameBytes ipc := by cases ipc <;> rfl

theorem spBelow_framePushes (a : Long) : spBelow a (framePushes s k spc ipc) = a - BitVec.ofNat 32 (frameBytes ipc) := by
  cases ipc <;> simp [framePushes, spBelow, frameBytes, stepOf, Size.bytes, BitVec.sub_sub]

/-- An entry changes SR and SSP of the context, and then the pc. -/
theorem State.framed_ctx (s : State) (k : Byte) (spc : Long) (ipc : Option Long) (level : Option (BitVec 3)) :
    (s.framed k spc ipc level).ctx =
      { s.ctx with
        sr := srForEntry s.ctx.sr level
        ssp := s.ctx.ssp - BitVec.ofNat 32 (frameBytes ipc) } := by
  rw [State.framed_eq, State.pushedAll_ctx, State.entering_sp, State.entering_ctx, spBelow_framePushes]
  exact Ctx.withSp_supervisor (c := { s.ctx with sr := srForEntry s.ctx.sr level }) (srS_srForEntry _ _) _

theorem State.framed_params : (s.framed k spc ipc level).params = s.params := by
  rw [State.framed_eq, State.pushedAll_params, State.entering_params]

theorem State.entered_ctx : (s.entered k spc ipc level).ctx =
    { s.ctx with
      sr := srForEntry s.ctx.sr level
      ssp := s.ctx.ssp - BitVec.ofNat 32 (frameBytes ipc)
      pc := (s.framed k spc ipc level).readAt (vectorAddr s k).toNat .l } := by
  rw [State.entered, State.withPc_ctx, State.framed_ctx]

/-- No instruction runs during an entry, so every other context keeps what it had. -/
theorem State.entered_other {t : State} (h : takeEntry (enterException k spc ipc level) s = .next t) {j : Fin 5}
    (hj : j ≠ s.cur) : t.ctxs[j.val] = s.ctxs[j.val] := by
  have closed := (othersRelated_systemClosed (· = ·) s).toClosed
  obtain ⟨-, hothers⟩ :=
    keeps_takeEntry closed (keeps_enterException closed _ _ _ _) ⟨rfl, fun _ _ => rfl⟩ h
  exact (hothers j hj).symm

variable (hn : frameBytes ipc ≤ s.ctx.ssp.toNat)
include hn

theorem toNat_frame :
    (s.ctx.ssp - BitVec.ofNat 32 (frameBytes ipc)).toNat = s.ctx.ssp.toNat - frameBytes ipc := by
  have size : (BitVec.ofNat 32 (frameBytes ipc)).toNat = frameBytes ipc := by cases ipc <;> rfl
  rw [BitVec.toNat_sub_of_le (BitVec.le_def.2 (by rwa [size])), size]

/-- Bytes outside the frame are unchanged. -/
theorem State.framed_outside :
    sameMemoryOutside s (s.framed k spc ipc level) (s.ctx.ssp - BitVec.ofNat 32 (frameBytes ipc)) (frameBytes ipc) := by
  intro b hb
  rw [toNat_frame hn] at hb
  rw [State.framed_eq]
  refine State.pushedAll_get_other (s := s.entering level) ?_ fun j hj => ?_
  · rwa [State.entering_sp, pushBytes_framePushes]
  · rw [pushBytes_framePushes] at hj ⊢
    rw [State.entering_sp, State.entering_params]
    exact hb j hj

/-- A read that no byte of the frame reaches reads what was there. -/
theorem State.framed_readAt_other {a : Nat} {sz : Size}
    (h : ∀ i < sz.bytes, ∀ j < frameBytes ipc,
      busAddr s.params (a + i) ≠
        busAddr s.params ((s.ctx.ssp - BitVec.ofNat 32 (frameBytes ipc)).toNat + j)) :
    (s.framed k spc ipc level).readAt a sz = s.readAt a sz := by
  refine State.readAt_of_bytes fun i hi => ?_
  rw [State.byteAt, State.byteAt, State.framed_params]
  exact State.framed_outside hn _ (h i hi)

variable (hrom : noRom s (s.ctx.ssp - BitVec.ofNat 32 (frameBytes ipc)) (frameBytes ipc) = true)
  (hbits : frameBytes ipc ≤ 2 ^ s.params.addrBits)
include hrom hbits

theorem State.framed_readAt_slot : ∀ q ∈ pushSlots s.ctx.ssp (framePushes s k spc ipc),
    (s.framed k spc ipc level).readAt q.1.toNat q.2.1 = trunc q.2.1 q.2.2 := by
  rw [← State.entering_sp s level, State.framed_eq]
  refine State.pushedAll_readAt ?_ ?_ fun j hj => ?_
  · rwa [State.entering_sp, pushBytes_framePushes]
  · rwa [pushBytes_framePushes, State.entering_params]
  · rw [pushBytes_framePushes] at hj ⊢
    rw [State.entering_sp, State.entering_params, ← toNat_frame hn]
    exact kindAt_of_noRom hrom hj

/-- The words of the frame, from the bottom up: SR as software sees it, the saved pc, the Format/Offset word, and the
instruction address of the six-word format. -/
theorem State.framed_words :
    let sp := s.ctx.ssp - BitVec.ofNat 32 (frameBytes ipc)
    let t := s.framed k spc ipc level
    t.readAt sp.toNat .w = s.srWord.setWidth 32 ∧ t.readAt (sp + 2#32).toNat .l = spc ∧
      t.readAt (sp + 6#32).toNat .w = (formatWord ipc.isSome k).setWidth 32 ∧
      ∀ a, ipc = some a → t.readAt (sp + 8#32).toNat .l = a := by
  have word : ∀ w : Word, trunc .w (w.setWidth 32) = w.setWidth 32 := fun w => by
    rw [trunc, BitVec.setWidth_setWidth_of_le w (by decide), BitVec.setWidth_eq]
  have slots := State.framed_readAt_slot (k := k) (spc := spc) (level := level) hn hrom hbits
  cases ipc with
  | none =>
    have at2 : s.ctx.ssp - 8#32 + 2#32 = s.ctx.ssp - 6#32 := by bv_omega
    have at6 : s.ctx.ssp - 8#32 + 6#32 = s.ctx.ssp - 2#32 := by bv_omega
    simp only [framePushes, pushSlots, Option.toList_none, List.map_nil, List.nil_append, List.forall_mem_cons,
      List.not_mem_nil, false_implies, implies_true, and_true, stepOf, Size.bytes, BitVec.sub_sub, BitVec.reduceAdd,
      word] at slots
    obtain ⟨hformat, hpc, hsr⟩ := slots
    refine ⟨hsr, ?_, ?_, fun _ e => nomatch e⟩
    · exact (congrArg (fun x : Long => State.readAt _ x.toNat .l) at2).trans hpc
    · exact (congrArg (fun x : Long => State.readAt _ x.toNat .w) at6).trans hformat
  | some a =>
    have at2 : s.ctx.ssp - 12#32 + 2#32 = s.ctx.ssp - 10#32 := by bv_omega
    have at6 : s.ctx.ssp - 12#32 + 6#32 = s.ctx.ssp - 6#32 := by bv_omega
    have at8 : s.ctx.ssp - 12#32 + 8#32 = s.ctx.ssp - 4#32 := by bv_omega
    simp only [framePushes, pushSlots, Option.toList_some, List.map_cons, List.map_nil, List.cons_append, List.nil_append, List.forall_mem_cons,
      List.not_mem_nil, false_implies, implies_true, and_true, stepOf, Size.bytes, BitVec.sub_sub, BitVec.reduceAdd,
      word] at slots
    obtain ⟨hipc, hformat, hpc, hsr⟩ := slots
    refine ⟨hsr, ?_, ?_, fun x e => ?_⟩
    · exact (congrArg (fun x : Long => State.readAt _ x.toNat .l) at2).trans hpc
    · exact (congrArg (fun x : Long => State.readAt _ x.toNat .w) at6).trans hformat
    · cases e
      exact (congrArg (fun x : Long => State.readAt _ x.toNat .l) at8).trans hipc

end

/-- The jump to the handler leaves memory. -/
theorem State.entered_mem (s : State) (k : Byte) (spc : Long) (ipc : Option Long) (level : Option (BitVec 3)) :
    (s.entered k spc ipc level).mem = (s.framed k spc ipc level).mem := by
  rw [State.entered, State.withPc_mem]

theorem State.entered_readAt (s : State) (k : Byte) (spc : Long) (ipc : Option Long) (level : Option (BitVec 3))
    (a : Nat) (sz : Size) : (s.entered k spc ipc level).readAt a sz = (s.framed k spc ipc level).readAt a sz := by
  rw [State.entered, State.withPc_readAt]

theorem State.entered_params (s : State) (k : Byte) (spc : Long) (ipc : Option Long) (level : Option (BitVec 3)) :
    (s.entered k spc ipc level).params = s.params := by
  rw [State.entered, State.withPc_params, State.framed_params]

/-- Settles O14: the registers by `State.entered_ctx` and the bits of `srForEntry`, the frame by `State.framed_words`
and `State.framed_outside`. -/
theorem exceptionFrame : Obligations.ExceptionFrame := by
  intro s k spc ipc level hentry n sp hn hrom hbits hvector
  have taken := takeEntry_run (spc := spc) (level := level) hentry
  have words := State.framed_words (k := k) (spc := spc) (level := level) hn hrom hbits
  have outside := State.framed_outside (k := k) (spc := spc) (level := level) hn
  have vector := State.framed_readAt_other (k := k) (spc := spc) (level := level) (a := (vectorAddr s k).toNat) (sz := .l)
    hn hvector
  rw [formatWord_eq] at words
  obtain ⟨hsr, hpc, hformat, hipc⟩ := words
  refine ⟨_, taken, ?_⟩
  rw [State.entered_ctx]
  simp only [sameMemoryOutside, State.entered_readAt, State.entered_mem, true_and]
  exact ⟨srS_srForEntry _ _, srT1_srForEntry _ _, srT0_srForEntry _ _, srMask_srForEntry _ _, ofWord_srForEntry _ _, rfl,
    vector, hsr, hpc, hformat, hipc, outside, fun j hj => State.entered_other taken hj⟩

/-! ### TRAP and RTE (R424, R461) -/

section

variable {s : State} {v : BitVec 4}

/-- No trace follows an instruction that begins right after an entry. -/
theorem State.entered_untraced {k : Byte} {spc : Long} {ipc : Option Long} {level : Option (BitVec 3)} :
    untraced (s.entered k spc ipc level) = true := by
  rw [untraced, srTraced, State.entered_ctx, srT1_srForEntry, srT0_srForEntry]
  exact Bool.or_true _

/-- The Format/Offset word of a four-word frame has format 0. -/
theorem formatWord_four (k : Byte) : ((formatWord false k).setWidth 32).toNat / 2 ^ 12 = 0 := by revert k; decide

/-- What was stacked is written back as it was. -/
theorem srUnpack_srWord (hsr : s.ctx.sr &&& srImplemented = s.ctx.sr) (hlayout : s.params.srLayout.distinct = true) :
    srUnpack s.params.srLayout s.srWord = s.ctx.sr := (srUnpack_srPack hlayout _).trans hsr

end

/-- What RTE needs to know of the state an entry with a four-word frame leaves. -/
structure EnteredFour (s : State) (spc : Long) (t : State) : Prop where
  params : t.params = s.params
  untraced : untraced t = true
  ctx : ∃ pc, t.ctx = { s.ctx with sr := srForEntry s.ctx.sr none, ssp := s.ctx.ssp - 8#32, pc := pc }
  sr : t.readAt (s.ctx.ssp - 8#32).toNat .w = s.srWord.setWidth 32
  pc : t.readAt (s.ctx.ssp - 8#32 + 2#32).toNat .l = spc
  format : (t.readAt (s.ctx.ssp - 8#32 + 6#32).toNat .w).toNat / 2 ^ 12 = 0

theorem enteredFour {s : State} {k : Byte} {spc : Long} (hn : 8 ≤ s.ctx.ssp.toNat)
    (hrom : noRom s (s.ctx.ssp - 8#32) 8 = true) (hbits : 8 ≤ 2 ^ s.params.addrBits) :
    EnteredFour s spc (s.entered k spc none none) := by
  obtain ⟨hsr, hpc, hformat, -⟩ := State.framed_words (k := k) (spc := spc) (ipc := none) (level := none) hn hrom hbits
  refine ⟨State.entered_params _ _ _ _ _, State.entered_untraced, ⟨_, State.entered_ctx⟩, ?_, ?_, ?_⟩
  · rw [State.entered_readAt]
    exact hsr
  · rw [State.entered_readAt]
    exact hpc
  · rw [State.entered_readAt]
    exact (congrArg (fun w : Long => w.toNat / 2 ^ 12) hformat).trans (formatWord_four k)

/-- RTE from the state an entry has left: SSP is back, and SR and the pc are those the frame holds. -/
theorem EnteredFour.opRte {s t : State} {spc : Long} (h : EnteredFour s spc t)
    (hmasked : s.ctx.sr &&& srImplemented = s.ctx.sr) (hlayout : s.params.srLayout.distinct = true)
    (hw : srWritable s s.srWord = true) (hsr : readable s (s.ctx.ssp - 8#32) .w = true)
    (hpc : readable s (s.ctx.ssp - 8#32 + 2#32) .l = true) (hfw : readable s (s.ctx.ssp - 8#32 + 6#32) .w = true) :
    ∃ u, opRte t = .next u ∧ u.ctx = { s.ctx with pc := spc } := by
  obtain ⟨pc, hctx⟩ := h.ctx
  have hssp : t.ctx.ssp = s.ctx.ssp - 8#32 := by rw [hctx]
  have hstacked : (t.readAt t.ctx.ssp.toNat .w).setWidth 16 = s.srWord := by
    rw [hssp, h.sr, BitVec.setWidth_setWidth_of_le _ (by decide), BitVec.setWidth_eq]
  have hsize : frameSize (t.readAt (t.ctx.ssp + 6#32).toNat .w) = some 8#32 :=
    frameSize_known t _ (0, 8#32) List.mem_cons_self (by rw [hssp, h.format])
  obtain ⟨u, hexec, hu⟩ := opRte_completes (s := t) (by rw [hctx]; exact srS_srForEntry _ _)
    (by rwa [hssp, readable_congr h.params]) (by rwa [hssp, readable_congr h.params])
    (by rwa [hssp, readable_congr h.params]) hsize
    (by rw [hstacked, ← hw, srWritable, srWritable, h.params])
  refine ⟨_, hexec.trans (complete_run h.untraced 1 u _), ?_⟩
  refine (congrArg State.ctx hu).trans ?_
  rw [State.returned, State.ctx_withCtx, hstacked, hssp, h.pc, h.params, srUnpack_srWord hmasked hlayout, hctx,
    BitVec.sub_add_cancel]

/-- Settles O15: TRAP leaves an `EnteredFour` state, and RTE returns from it. -/
theorem trapThenRte : Obligations.TrapThenRte := by
  intro s v hmasked hlayout hw hentry hn hbits hrom
  have slots := hentry
  simp only [entryReady, Bool.not_false, Bool.true_or, Bool.true_and, Bool.and_eq_true, Bool.false_eq_true, if_false]
    at slots
  obtain ⟨⟨⟨hformat, hpc⟩, hsr⟩, -⟩ := slots
  have at2 : s.ctx.ssp - 8#32 + 2#32 = s.ctx.ssp - 6#32 := by bv_omega
  have at6 : s.ctx.ssp - 8#32 + 6#32 = s.ctx.ssp - 2#32 := by bv_omega
  obtain ⟨u, hexec, hctx⟩ := (enteredFour (k := 2#4 ++ v) hn hrom hbits).opRte hmasked hlayout hw
    (readable_of_writable hsr) (at2 ▸ readable_of_writable hpc) (at6 ▸ readable_of_writable hformat)
  exact ⟨_, u, exec_trap hentry, hexec, hctx⟩

end Sys2Proof.Machine

/-! ## Interrupts (60_exceptions.md R470, R471, 48_system_control.md R396, 10_state.md R43) -/

namespace Sys2Proof.Machine

/-! ### The request accepted next -/

/-- `r` is the one of the two to accept: the higher level, or the same level and no higher vector (R471). -/
def Beats (r q : IrqReq) : Prop :=
  q.level.toNat < r.level.toNat ∨ (q.level = r.level ∧ r.vector.toNat ≤ q.vector.toNat)

theorem Beats.refl (r : IrqReq) : Beats r r := .inr ⟨rfl, Nat.le_refl _⟩

theorem Beats.trans {r q p : IrqReq} (h : Beats r q) (h' : Beats q p) : Beats r p := by
  rcases h with h | ⟨hl, hv⟩
  · rcases h' with h' | ⟨hl', -⟩
    · exact .inl (h'.trans h)
    · exact .inl (hl' ▸ h)
  · rcases h' with h' | ⟨hl', hv'⟩
    · exact .inl (hl ▸ h')
    · exact .inr ⟨hl'.trans hl, hv.trans hv'⟩

theorem beats_of_not {r q : IrqReq} (h : ¬ Beats r q) : Beats q r := by
  obtain ⟨hlevel, hvector⟩ := not_or.1 h
  rcases Nat.lt_or_eq_of_le (Nat.le_of_not_lt hlevel) with hlt | heq
  · exact .inl hlt
  · have same : r.level = q.level := BitVec.eq_of_toNat_eq heq
    exact .inr ⟨same, Nat.le_of_lt (Nat.lt_of_not_le fun hle => hvector ⟨same.symm, hle⟩)⟩

theorem betterIrq_beats (r q : IrqReq) : Beats (betterIrq r q) r ∧ Beats (betterIrq r q) q := by
  unfold betterIrq
  split
  · next h => exact ⟨.refl r, h⟩
  · next h => exact ⟨beats_of_not h, .refl q⟩

theorem betterIrq_mem (r q : IrqReq) : betterIrq r q = r ∨ betterIrq r q = q := by
  unfold betterIrq
  split
  · exact .inl rfl
  · exact .inr rfl

/-- The request kept through a list is one of it and beats each of it. -/
theorem foldl_betterIrq (rs : List IrqReq) (r : IrqReq) :
    rs.foldl betterIrq r ∈ r :: rs ∧ ∀ q ∈ r :: rs, Beats (rs.foldl betterIrq r) q := by
  induction rs generalizing r with
  | nil => exact ⟨List.mem_cons_self, fun q hq => by rw [List.mem_singleton.1 hq]; exact .refl r⟩
  | cons q rs ih =>
    obtain ⟨hmem, hbeats⟩ := ih (betterIrq r q)
    obtain ⟨hr, hq⟩ := betterIrq_beats r q
    have best := hbeats _ List.mem_cons_self
    constructor
    · rcases List.mem_cons.1 hmem with h | h
      · rw [List.foldl_cons, h]
        rcases betterIrq_mem r q with e | e <;> rw [e] <;> simp
      · exact List.mem_cons_of_mem _ (List.mem_cons_of_mem _ h)
    · intro p hp
      rcases List.mem_cons.1 hp with rfl | hp
      · exact best.trans hr
      · rcases List.mem_cons.1 hp with rfl | hp
        · exact best.trans hq
        · exact hbeats p (List.mem_cons_of_mem _ hp)

section

variable {s : State} {r : IrqReq}

theorem eligible_iff : eligible s r = true ↔
    (srMask s.ctxs[r.ctx.val].sr).toNat < r.level.toNat ∨ (s.params.irqNmi7 = true ∧ r.level = 7#3) := by
  simp only [eligible, Bool.or_eq_true, decide_eq_true_eq, Bool.and_eq_true, beq_iff_eq]

/-- The request picked is pending, for the running context and eligible, and beats every other such request. -/
theorem pickIrq_best (h : pickIrq s = some r) :
    (r ∈ s.irqs ∧ r.ctx = s.cur ∧ eligible s r = true) ∧
      ∀ q ∈ s.irqs, q.ctx = s.cur → eligible s q = true → Beats r q := by
  have candidate : ∀ q, q ∈ s.irqs.filter (fun r => r.ctx == s.cur && eligible s r) ↔
      q ∈ s.irqs ∧ q.ctx = s.cur ∧ eligible s q = true := fun q => by
    rw [List.mem_filter, Bool.and_eq_true, beq_iff_eq]
  unfold pickIrq at h
  split at h
  · cases h
  · next a rs hfilter =>
    cases h
    rw [hfilter] at candidate
    obtain ⟨hmem, hbeats⟩ := foldl_betterIrq rs a
    exact ⟨(candidate _).1 hmem, fun q hq hctx hel => hbeats q ((candidate q).2 ⟨hq, hctx, hel⟩)⟩

theorem pickIrq_none (h : ∀ r ∈ s.irqs, eligible s r = false) : pickIrq s = none := by
  have empty : s.irqs.filter (fun r => r.ctx == s.cur && eligible s r) = [] :=
    List.filter_eq_nil_iff.2 fun r hr => by simp [h r hr]
  rw [pickIrq, empty]

/-! ### Waking -/

theorem wake_lpStopped (h : s.cpu = .lpStopped) : wake s = s := if_pos h

theorem wake_eq_foldl (h : s.cpu ≠ .lpStopped) : wake s = (s.irqs.filter (eligible s)).foldl wakeFor s := if_neg h

theorem wake_none (h : ∀ r ∈ s.irqs, eligible s r = false) : wake s = s := by
  have empty : s.irqs.filter (eligible s) = [] := List.filter_eq_nil_iff.2 fun r hr => by simp [h r hr]
  unfold wake
  rw [empty]
  exact ite_self _

theorem reschedule_cpu (s : State) : (reschedule s).cpu = s.cpu := by
  unfold reschedule
  split
  · rfl
  · split <;> rfl

theorem reschedule_irqs (s : State) : (reschedule s).irqs = s.irqs := by
  unfold reschedule
  split
  · rfl
  · split <;> rfl

/-- The machine with the CPU no longer STOPPED (R471 a). -/
def unstopped (s : State) : State := if s.cpu = .stopped then { s with cpu := .running } else s

/-- Only the state of the CPU changes. -/
theorem unstopped_eq (s : State) : unstopped s = { s with cpu := (unstopped s).cpu } := by
  unfold unstopped
  split <;> rfl

theorem unstopped_ctxs (s : State) : (unstopped s).ctxs = s.ctxs := by rw [unstopped_eq]

theorem unstopped_cpu (h : s.cpu ≠ .lpStopped) : (unstopped s).cpu = .running := by
  unfold unstopped
  cases hc : s.cpu with
  | running => rw [if_neg (by decide)]; exact hc
  | stopped => rfl
  | lpStopped => exact absurd hc h

theorem wakeFor_eq (s : State) (r : IrqReq) : wakeFor s r =
    if s.ctxs[r.ctx.val].run = .notReady then wakeCtx r.ctx (unstopped s) else unstopped s := by
  rw [← unstopped_ctxs s]
  rfl

/-- What a wake-up leaves of the machine around the contexts. -/
theorem wakeFor_rest (s : State) (r : IrqReq) :
    (wakeFor s r).irqs = s.irqs ∧ (wakeFor s r).mem = s.mem ∧ (wakeFor s r).params = s.params ∧
      (wakeFor s r).mark = s.mark ∧ (wakeFor s r).cpu = (unstopped s).cpu := by
  rw [wakeFor_eq, unstopped_eq]
  split
  · exact ⟨reschedule_irqs _, reschedule_mem _, reschedule_params _, reschedule_mark _, reschedule_cpu _⟩
  · exact ⟨rfl, rfl, rfl, rfl, rfl⟩

theorem wakeCtx_ctxs (i j : Fin 5) (u : State) :
    (wakeCtx i u).ctxs[j.val] = if i = j then { u.ctxs[j.val] with run := .ready } else u.ctxs[j.val] := by
  rw [wakeCtx, reschedule_ctxs, State.setRun, Vector.getElem_set]
  by_cases h : i = j
  · subst h
    rw [if_pos rfl, if_pos rfl]
  · rw [if_neg h, if_neg fun e => h (Fin.ext e)]

/-- A wake-up makes the context of the request READY where it was NOT_READY, and changes no context else (R471 b). -/
theorem wakeFor_ctxs (s : State) (r : IrqReq) (j : Fin 5) :
    (wakeFor s r).ctxs[j.val] =
      if s.ctxs[j.val].run = .notReady ∧ r.ctx = j then { s.ctxs[j.val] with run := .ready } else s.ctxs[j.val] := by
  by_cases hj : r.ctx = j
  · subst hj
    by_cases h : s.ctxs[r.ctx.val].run = .notReady
    · rw [wakeFor_eq, if_pos h, wakeCtx_ctxs, if_pos rfl, if_pos ⟨h, rfl⟩]
      simp only [unstopped_ctxs]
    · rw [wakeFor_eq, if_neg h, if_neg fun e => h e.1]
      simp only [unstopped_ctxs]
  · rw [if_neg fun e => hj e.2, wakeFor_eq]
    split
    · rw [wakeCtx_ctxs, if_neg hj]
      simp only [unstopped_ctxs]
    · simp only [unstopped_ctxs]

/-- The running context is READY, and MC0 is the running one where it is READY (R43). -/
def Scheduled (s : State) : Prop := s.ctx.run = .ready ∧ (s.ctxs[0].run = .ready → s.cur = 0)

theorem wakeFor_scheduled (h : s.ctxs[r.ctx.val].run = .notReady) : Scheduled (wakeFor s r) := by
  have woken : (wakeFor s r).ctxs[r.ctx.val].run = .ready := by rw [wakeFor_ctxs, if_pos ⟨h, rfl⟩]
  rw [wakeFor_eq, if_pos h, wakeCtx] at woken ⊢
  rw [reschedule_ctxs] at woken
  exact ⟨reschedule_ready ⟨_, woken⟩, fun hr => reschedule_cur (chooseCtx_master (by rwa [reschedule_ctxs] at hr))⟩

theorem wakeFor_keeps_scheduled (hs : Scheduled s) : Scheduled (wakeFor s r) := by
  by_cases h : s.ctxs[r.ctx.val].run = .notReady
  · exact wakeFor_scheduled h
  · rw [wakeFor_eq, if_neg h, unstopped_eq]
    exact hs

end

/-! ### All wake-ups of a step -/

section

variable {s : State} {l : List IrqReq}

theorem foldl_wakeFor_rest (s : State) (l : List IrqReq) :
    (l.foldl wakeFor s).irqs = s.irqs ∧ (l.foldl wakeFor s).mem = s.mem ∧ (l.foldl wakeFor s).params = s.params ∧
      (l.foldl wakeFor s).mark = s.mark := by
  induction l generalizing s with
  | nil => exact ⟨rfl, rfl, rfl, rfl⟩
  | cons r l ih =>
    obtain ⟨hirqs, hmem, hparams, hmark⟩ := ih (wakeFor s r)
    obtain ⟨hirqs', hmem', hparams', hmark', -⟩ := wakeFor_rest s r
    exact ⟨hirqs.trans hirqs', hmem.trans hmem', hparams.trans hparams', hmark.trans hmark'⟩

theorem foldl_wakeFor_running (hs : s.cpu = .running) : (l.foldl wakeFor s).cpu = .running := by
  induction l generalizing s with
  | nil => exact hs
  | cons r l ih =>
    obtain ⟨-, -, -, -, hcpu⟩ := wakeFor_rest s r
    exact ih (hcpu.trans (unstopped_cpu (by rw [hs]; decide)))

theorem foldl_wakeFor_scheduled (hs : Scheduled s) : Scheduled (l.foldl wakeFor s) :=
  List.foldlRecOn l wakeFor hs fun _ h _ _ => wakeFor_keeps_scheduled h

/-- Every NOT_READY context with a request in the list is READY after all wake-ups; no other context changes. -/
theorem foldl_wakeFor_ctxs (s : State) (l : List IrqReq) (j : Fin 5) :
    (l.foldl wakeFor s).ctxs[j.val] =
      if s.ctxs[j.val].run = .notReady ∧ ∃ r ∈ l, r.ctx = j then { s.ctxs[j.val] with run := .ready }
      else s.ctxs[j.val] := by
  induction l generalizing s with
  | nil => simp
  | cons r l ih =>
    rw [List.foldl_cons, ih, wakeFor_ctxs]
    by_cases hrun : s.ctxs[j.val].run = .notReady
    · by_cases hr : r.ctx = j
      · simp [hrun, hr]
      · simp [hrun, hr]
    · simp [hrun]

/-- Where a context was woken, the scheduler has chosen. -/
theorem foldl_wakeFor_wakes {r : IrqReq} (hr : r ∈ l) (hrun : s.ctxs[r.ctx.val].run = .notReady) :
    Scheduled (l.foldl wakeFor s) := by
  induction l generalizing s with
  | nil => cases hr
  | cons q l ih =>
    by_cases hq : s.ctxs[q.ctx.val].run = .notReady
    · exact foldl_wakeFor_scheduled (s := wakeFor s q) (l := l) (wakeFor_scheduled hq)
    · rcases List.mem_cons.1 hr with rfl | hr
      · exact absurd hrun hq
      · refine ih hr ?_
        rw [wakeFor_ctxs, if_neg]
        · exact hrun
        · rintro ⟨-, same⟩
          exact hq (by simpa only [same] using hrun)

theorem wake_irqs (s : State) : (wake s).irqs = s.irqs ∧ (wake s).mem = s.mem ∧ (wake s).params = s.params ∧
    (wake s).mark = s.mark := by
  unfold wake
  split
  · exact ⟨rfl, rfl, rfl, rfl⟩
  · exact foldl_wakeFor_rest _ _

theorem mem_eligible {r : IrqReq} : r ∈ s.irqs.filter (eligible s) ↔ r ∈ s.irqs ∧ eligible s r = true :=
  List.mem_filter

theorem wake_cpu (h : s.cpu ≠ .lpStopped) (hr : ∃ r ∈ s.irqs, eligible s r = true) : (wake s).cpu = .running := by
  obtain ⟨r, hr⟩ := hr
  have member := mem_eligible.2 hr
  rw [wake_eq_foldl h]
  cases hl : s.irqs.filter (eligible s) with
  | nil => rw [hl] at member; cases member
  | cons q l =>
    obtain ⟨-, -, -, -, hcpu⟩ := wakeFor_rest s q
    exact foldl_wakeFor_running (s := wakeFor s q) (l := l) (hcpu.trans (unstopped_cpu h))

end

/-! ### Acceptance (R471 c) -/

section

variable {s : State} {r : IrqReq}

theorem step_accepts (hmark : s.mark = .none) (hevents : s.events = []) (hrun : canRun (wake s) = true)
    (hpick : pickIrq (wake s) = some r) : step s = acceptIrq r (wake s) := by
  rw [step, deliver_of_no_events hevents, advance, hmark]
  dsimp only
  rw [if_pos hrun, hpick]

theorem step_unpicked (hmark : s.mark = .none) (hevents : s.events = []) (hpick : pickIrq (wake s) = none) :
    step s = if canRun (wake s) then executeNext exec (wake s) else .next (wake s) := by
  rw [step, deliver_of_no_events hevents, advance, hmark]
  dsimp only
  rw [hpick]

theorem acceptIrq_framed (hstd : s.params.stdIntMode[s.cur.val] = true)
    (hentry : entryReady { s with irqs := s.irqs.filter fun q => q ≠ r } r.vector false = true) :
    acceptIrq r s = .next (State.entered { s with irqs := s.irqs.filter fun q => q ≠ r } r.vector s.ctx.pc none
      (some r.level)) := by
  rw [acceptIrq, if_pos hstd]
  exact takeEntry_run hentry

/-- Outside Standard Interrupt Mode the handler is entered without a frame (log 36). -/
theorem acceptIrq_unframed {u : State} (hu : u = { s with irqs := s.irqs.filter fun q => q ≠ r })
    (hstd : s.params.stdIntMode[s.cur.val] = false) (hread : readable u (vectorAddr u r.vector) .l = true) :
    acceptIrq r s = .next (u.flush.withPc (u.readAt (vectorAddr u r.vector).toNat .l)) := by
  subst hu
  have jump := M_bind_ok (readVector_run (s := State.flush { s with irqs := s.irqs.filter fun q => q ≠ r }) hread) setPc
  rw [acceptIrq, if_neg (by rw [hstd]; decide), takeEntry, M_bind_ok (flushPipeline_run _), jump]
  rfl

end

/-- Settles O17: the request by `pickIrq_best`, its acceptance by `acceptIrq_framed` and `acceptIrq_unframed`, masked
requests by `wake_none`, and the wake-ups by the fold over the eligible requests. -/
theorem interruptRule : Obligations.InterruptRule := by
  refine ⟨fun s r hmark hevents hrun hpick => ?_, fun s hevents hmasked => ?_, fun s => wake_lpStopped,
    fun s hcpu => ?_⟩
  · obtain ⟨hirqs, -, hparams, -⟩ := wake_irqs s
    obtain ⟨⟨hmem, hctx, hel⟩, hbest⟩ := pickIrq_best hpick
    have hstep := step_accepts hmark hevents hrun hpick
    refine ⟨hirqs ▸ hmem, hctx, ?_, fun q hq => hbest q (hirqs ▸ hq), fun hstd hentry => ?_, fun hstd hread => ?_⟩
    · have same : (wake s).ctxs[r.ctx.val] = (wake s).ctx := by simp only [State.ctx, hctx]
      have rises := eligible_iff.1 hel
      rwa [same, hparams] at rises
    · exact hstep.trans (acceptIrq_framed (by rwa [hparams]) hentry)
    · exact hstep.trans (acceptIrq_unframed rfl (by rwa [hparams]) hread)
  · have none_eligible : ∀ r ∈ s.irqs, eligible s r = false := fun r hr => by
      obtain ⟨hlevel, hnmi⟩ := hmasked r hr
      rw [Bool.eq_false_iff, Ne, eligible_iff, not_or, not_and_or, Bool.not_eq_true]
      exact ⟨Nat.not_lt.2 hlevel, hnmi⟩
    have hwake := wake_none none_eligible
    have hpick := pickIrq_none none_eligible
    refine ⟨hwake, hpick, fun hmark => ?_⟩
    rw [step_unpicked hmark hevents (by rwa [hwake]), hwake]
  · obtain ⟨hirqs, hmem, -, -⟩ := wake_irqs s
    simp only [← eligible_iff, Bool.not_eq_true]
    refine ⟨wake_cpu hcpu, wake_none, fun r hr hel hnot => ?_, fun j hj => ?_, hirqs, hmem⟩
    · have member := mem_eligible.2 ⟨hr, hel⟩
      rw [wake_eq_foldl hcpu]
      refine ⟨?_, foldl_wakeFor_wakes member hnot⟩
      rw [foldl_wakeFor_ctxs, if_pos ⟨hnot, r, member, rfl⟩]
    · rw [wake_eq_foldl hcpu, foldl_wakeFor_ctxs, if_neg]
      rintro ⟨hnot, r, hr, hctx⟩
      obtain ⟨hmem, hel⟩ := mem_eligible.1 hr
      rcases hj with hj | hj
      · exact hj hnot
      · rw [hj r hmem hctx] at hel
        cases hel

end Sys2Proof.Machine

/-! ## One step, and what a reset leaves alone (60_exceptions.md R462, 70_reset_and_hazards.md R500 to R504) -/

namespace Sys2Proof.Machine

section

variable {s : State}

theorem executeNext_decoded {i : Instr} (hfetch : fetchCheck s s.ctx.pc = none) (hi : fetchDecode s = .instr i) :
    executeNext exec s = exec i s := by
  rw [executeNext, hfetch, hi]

/-- Settles O1: the branches of `advance` before the instruction, then `executeNext_decoded`. -/
theorem stepRunsDecoded : Obligations.StepRunsDecoded := by
  refine ⟨fun s i hmark hrun hpick hfetch hi => ?_, fun s i hmark hevents hirqs hrun hfetch hi => ?_⟩
  · rw [step, advance, hmark]
    dsimp only
    rw [if_pos hrun, hpick]
    exact executeNext_decoded hfetch hi
  · rw [step_executes hmark hevents hirqs hrun]
    exact executeNext_decoded hfetch hi

/-! ### The machine after reset -/

/-- Settles O6: memory and the list of stale bytes are empty, and the five contexts are checked one by one. -/
theorem resetHasInv : Obligations.ResetHasInv :=
  ⟨State.reset_mem_wf, ⟨List.Pairwise.nil, fun _ hb => nomatch hb⟩, by decide, fun _ => rfl⟩

/-- Settles O7: each value by the definition of `State.reset`; the contexts are checked one by one. -/
theorem resetValues : Obligations.ResetValues :=
  ⟨rfl, rfl, rfl, rfl, rfl, rfl, rfl, rfl, by decide, by decide⟩

/-! ### What the gathering of the registers changes -/

section

variable {P : State → Prop} (draws : ∀ (u : State) (n : Nat), P u → P { u with draws := n })
include draws

theorem keeps_drawCtx : drawCtx.Keeps P :=
  have vector (n : Nat) : (drawVector n).Keeps P := fun u h => draws u _ h
  keeps_bind (keeps_read _) fun _ => keeps_bind (vector 8) fun _ => keeps_bind (vector 7) fun _ =>
    keeps_bind (vector 7) fun _ => keeps_pure _

theorem keeps_resetOther (i : CtxId) : (resetOther i).Keeps P := by
  refine keeps_bind (keeps_read _) fun supplied => ?_
  cases supplied with
  | some c => exact keeps_bind (keeps_read _) fun _ => keeps_pure _
  | none => exact keeps_drawCtx draws

theorem keeps_resetMaster : resetMaster.Keeps P := by
  refine keeps_bind (keeps_read _) fun supplied => ?_
  cases supplied with
  | some c => exact keeps_bind (keeps_read _) fun _ => keeps_pure _
  | none =>
    exact keeps_bind (keeps_read _) fun _ => keeps_bind (keeps_memRead _ _) fun _ =>
      keeps_bind (keeps_memRead _ _) fun _ => keeps_bind (keeps_drawCtx draws) fun _ => keeps_pure _

theorem keeps_gatherExt (l : List (BitVec 12 × ExtReg)) : (drawExt l).Keeps P := by
  induction l with
  | nil => exact keeps_pure _
  | cons e l ih =>
    obtain ⟨code, r⟩ := e
    cases r with
    | fcr => exact keeps_bind ih fun _ => keeps_pure _
    | plain v => exact keeps_bind (fun u h => draws u _ h) fun _ => keeps_bind ih fun _ => keeps_pure _

end

/-- The machine with the CPU given to MC0, from where a reset gathers the registers. -/
def resetStart (s : State) : State := { s with mark := .none, cpu := .running, cur := 0, stale := [] }

/-- `t` is `s` with registers, extended registers and draws of its own. -/
def Gathered (s t : State) : Prop :=
  ∃ ctxs fcr extRegs draws, t = { s with ctxs := ctxs, fcr := fcr, extRegs := extRegs, draws := draws }

theorem Gathered.refl (s : State) : Gathered s s := ⟨_, _, _, _, rfl⟩

theorem Gathered.draws {t : State} (h : Gathered s t) (n : Nat) : Gathered s { t with draws := n } := by
  obtain ⟨ctxs, fcr, extRegs, draws, rfl⟩ := h
  exact ⟨ctxs, fcr, extRegs, n, rfl⟩

/-- What a reset does after giving MC0 the CPU changes registers and draws only. -/
theorem resetBody_keeps (s : State) : ∃ gather : M Unit,
    resetBody s = gather (resetStart s) ∧ gather.Keeps (Gathered (resetStart s)) := by
  have draws (u : State) (n : Nat) (h : Gathered (resetStart s) u) : Gathered (resetStart s) { u with draws := n } :=
    h.draws n
  refine ⟨_, M_bind_update _ _ s, ?_⟩
  refine keeps_bind (keeps_resetOther draws 1) fun c1 => keeps_bind (keeps_resetOther draws 2) fun c2 =>
    keeps_bind (keeps_resetOther draws 3) fun c3 => keeps_bind (keeps_resetOther draws 4) fun c4 =>
    keeps_bind (keeps_bind (fun u h => draws u _ h) fun _ => keeps_pure _) fun f =>
    keeps_bind (keeps_read _) fun l => keeps_bind (keeps_gatherExt draws l) fun x =>
    keeps_bind (keeps_resetMaster draws) fun c0 => keeps_update fun u hu => ?_
  obtain ⟨_, _, _, n, rfl⟩ := hu
  exact ⟨_, _, _, n, rfl⟩

/-- A reset, whether its vectors can be read or not. -/
theorem hostReset_gathered (s : State) : ∃ t mark, Gathered (resetStart s) t ∧ hostReset s = { t with mark := mark } := by
  obtain ⟨gather, hbody, hkeeps⟩ := resetBody_keeps s
  have hs := hkeeps _ (.refl _)
  rw [hostReset, hbody]
  split <;> rename_i hrun <;> rw [hrun] at hs
  · exact ⟨_, _, hs, rfl⟩
  · exact ⟨_, _, hs, rfl⟩

theorem hostReset_cpu (s : State) : (hostReset s).cpu = .running := by
  obtain ⟨t, mark, ⟨_, _, _, _, rfl⟩, h⟩ := hostReset_gathered s
  rw [h]
  rfl

/-- Settles O8, from what a reset changes at all. -/
theorem resetKeepsMemory : Obligations.ResetKeepsMemory := fun s => by
  obtain ⟨t, mark, ⟨_, _, _, _, rfl⟩, h⟩ := hostReset_gathered s
  rw [h]
  rfl

/-! ### A machine that is LPSTOPPED (48_system_control.md R396) -/

/-- `t` is LPSTOPPED without a mark, and its contexts hold the registers of `s`. -/
structure Asleep (s t : State) : Prop where
  cpu : t.cpu = .lpStopped
  mark : t.mark = .none
  ctxs : ∀ j : Fin 5, t.ctxs[j.val] =
    { s.ctxs[j.val] with run := t.ctxs[j.val].run, jtagHalt := t.ctxs[j.val].jtagHalt }

theorem Asleep.wakeCtx {t : State} (h : Asleep s t) (i : CtxId) : Asleep s (wakeCtx i t) := by
  refine ⟨(reschedule_cpu _).trans h.cpu, (reschedule_mark _).trans h.mark, fun j => ?_⟩
  rw [wakeCtx_ctxs]
  split
  · rw [h.ctxs j]
  · exact h.ctxs j

theorem Asleep.clearHalt {t : State} (h : Asleep s t) (i : CtxId) :
    Asleep s { t with ctxs := t.ctxs.set i.val { t.ctxs[i.val] with jtagHalt := false } } := by
  refine ⟨h.cpu, h.mark, fun j => ?_⟩
  by_cases hij : i = j
  · subst hij
    simp only [Vector.getElem_set_self]
    rw [h.ctxs i]
  · have other : i.val ≠ j.val := fun e => hij (Fin.ext e)
    simp only [Vector.getElem_set_ne _ _ other]
    exact h.ctxs j

theorem applyEvent_asleep {t : State} (h : Asleep s t) {e : HostEvent} (he : e ≠ .reset) :
    Asleep s (applyEvent t e) := by
  cases e with
  | reset => exact absurd rfl he
  | irq r => exact iteInduction (fun _ => h) fun _ => ⟨h.cpu, h.mark, h.ctxs⟩
  | dropIrq r => exact ⟨h.cpu, h.mark, h.ctxs⟩
  | markReady i => exact iteInduction (fun _ => h.wakeCtx i) fun _ => h
  | clearJtagHalt i =>
    exact iteInduction (fun _ => iteInduction (fun _ => (h.clearHalt i).wakeCtx i) fun _ => h.clearHalt i) fun _ => h
  | busWrite a v =>
    refine iteInduction (fun _ => ⟨?_, ?_, ?_⟩) fun _ => h
    · rw [State.storeByte_cpu, h.cpu]
    · rw [State.storeByte_mark, h.mark]
    · simpa only [State.storeByte_ctxs] using h.ctxs

theorem deliver_asleep {batch : List HostEvent} {rest : List (List HostEvent)} (hcpu : s.cpu = .lpStopped)
    (hmark : s.mark = .none) (hevents : s.events = batch :: rest) (hreset : .reset ∉ batch) :
    Asleep s (deliver s) := by
  rw [deliver, hevents]
  exact List.foldlRecOn batch applyEvent ⟨hcpu, hmark, fun j => rfl⟩ fun u hu e he =>
    applyEvent_asleep hu fun same => hreset (same ▸ he)

/-- Nothing runs while the CPU is LPSTOPPED. -/
theorem step_lpStopped (hcpu : (deliver s).cpu = .lpStopped) (hmark : (deliver s).mark = .none) :
    step s = .next (deliver s) := by
  have idle : canRun (deliver s) = false := by rw [canRun, hcpu]; rfl
  rw [step, advance, hmark]
  dsimp only
  rw [wake_lpStopped hcpu, idle, if_neg Bool.false_ne_true]

/-- Settles O12: no event but a reset ends the sleep, by `applyEvent_asleep`, and a sleeping machine runs nothing. -/
theorem lpStoppedUntilReset : Obligations.LpStoppedUntilReset := by
  refine ⟨fun s batch rest hcpu hmark hevents hreset => ?_, fun s hcpu hmark hevents => ?_, hostReset_cpu⟩
  · have asleep := deliver_asleep hcpu hmark hevents hreset
    exact ⟨deliver s, step_lpStopped asleep.cpu asleep.mark, asleep.cpu, asleep.mark, asleep.ctxs⟩
  · have same := deliver_of_no_events hevents
    rw [step_lpStopped (by rwa [same]) (by rwa [same]), same]

end

end Sys2Proof.Machine

/-! ## What a reset loads (70_reset_and_hazards.md R501 to R503) -/

namespace Sys2Proof.Machine

/-- The machine of a reset that has drawn `k` free values. -/
def gathering (s : State) (k : Nat) : State := { resetStart s with draws := s.draws + k }

/-- A context all of whose registers are free values, from number `k` on. -/
def freeCtx (s : State) (k : Nat) : Ctx :=
  { d := Vector.ofFn fun i : Fin 8 => s.free (k + i.val), a := Vector.ofFn fun i : Fin 7 => s.free (k + 8 + i.val)
    usp := s.free (k + 15), ssp := s.free (k + 16), pc := s.free (k + 17)
    sr := ((s.free (k + 18)).setWidth 16) &&& srImplemented, vbr := s.free (k + 19)
    sfc := fcMask s.params (s.free (k + 20)), dfc := fcMask s.params (s.free (k + 21))
    run := .halted, jtagHalt := false }

section

variable (s : State) (k : Nat)

theorem draw_gathering : draw (gathering s k) = .ok (s.free k) (gathering s (k + 1)) := rfl

theorem drawVector_gathering (n : Nat) :
    drawVector n (gathering s k) = .ok (Vector.ofFn fun i : Fin n => s.free (k + i.val)) (gathering s (k + n)) := by
  simp only [drawVector, gathering, State.free, Nat.add_assoc]

theorem drawCtx_gathering : drawCtx (gathering s k) = .ok (freeCtx s k) (gathering s (k + 22)) := by
  rw [drawCtx, M_bind_read, M_bind_ok (drawVector_gathering s k 8), M_bind_ok (drawVector_gathering s (k + 8) 7),
    M_bind_ok (drawVector_gathering s (k + 8 + 7) 7)]
  simp only [Vector.getElem_ofFn]
  rfl

/-! ### The contexts -/

/-- How many free values a context takes that is given, or not given, a register set. -/
def drawsFor (supplied : Option Ctx) : Nat := if supplied.isNone then 22 else 0

/-- A context after a reset: the register set it is given, or free values from number `k` on (R503). -/
def ctxOrFree (supplied : Option Ctx) : Ctx := supplied.elim (freeCtx s k) (sanitise s.params)

theorem resetOther_gathering (i : CtxId) : resetOther i (gathering s k) =
    .ok (ctxOrFree s k s.resetCtx[i.val]) (gathering s (k + drawsFor s.resetCtx[i.val])) := by
  have given : (gathering s k).resetCtx[i.val] = s.resetCtx[i.val] := rfl
  rw [resetOther, M_bind_read, given]
  cases s.resetCtx[i.val] with
  | some c => rfl
  | none => exact drawCtx_gathering s k

/-- Free values drawn for the contexts 1 to `j - 1`. -/
def drawsBefore (j : Nat) : Nat := 22 * ((s.resetCtx.toList.drop 1).take (j - 1)).countP Option.isNone

theorem drawsBefore_succ {j : Nat} (hj : j < 4) :
    drawsBefore s (j + 2) = drawsBefore s (j + 1) + drawsFor s.resetCtx[j + 1] := by
  have next : (s.resetCtx.toList.drop 1)[j]? = some s.resetCtx[j + 1] := by
    rw [List.getElem?_drop, Nat.add_comm 1 j, List.getElem?_eq_getElem (by rw [Vector.length_toList]; omega)]
    rfl
  rw [drawsBefore, drawsBefore, Nat.add_sub_cancel, show j + 2 - 1 = j + 1 from rfl, List.take_add_one, next,
    List.countP_append, Nat.mul_add, drawsFor]
  cases s.resetCtx[j + 1] <;> rfl

/-- The reset vectors' addresses. -/
def resetSspAddr : Long := (s.params.vec.resetSsp ++ 0#2 : BitVec 10).setWidth 32
def resetPcAddr : Long := (s.params.vec.resetPc ++ 0#2 : BitVec 10).setWidth 32

/-- MC0 after a reset (R501). -/
def masterCtx (supplied : Option Ctx) : Ctx :=
  supplied.elim
    { freeCtx s k with ssp := s.readAt (resetSspAddr s).toNat .l, pc := s.readAt (resetPcAddr s).toNat .l,
                       sr := 0x2700#16, vbr := 0#32, run := .ready }
    fun c => { sanitise s.params c with run := .ready }

/-- MC0 is given its registers, or the two reset vectors can be read. -/
def vectorsReadable : Prop :=
  s.resetCtx[0] = none → readable s (resetSspAddr s) .l = true ∧ readable s (resetPcAddr s) .l = true

theorem resetMaster_gathering (hread : vectorsReadable s) : resetMaster (gathering s k) =
    .ok (masterCtx s k s.resetCtx[0]) (gathering s (k + drawsFor s.resetCtx[0])) := by
  have given : (gathering s k).resetCtx[0] = s.resetCtx[0] := rfl
  rw [resetMaster, M_bind_read, given]
  cases h : s.resetCtx[0] with
  | some c => rfl
  | none =>
    obtain ⟨hssp, hpc⟩ := hread h
    have ssp := memRead_run (s := gathering s k) hssp
    have pc := memRead_run (s := gathering s k) hpc
    dsimp only
    rw [M_bind_read]
    exact (M_bind_ok ssp _).trans ((M_bind_ok pc _).trans (M_bind_ok (drawCtx_gathering s k) _))

/-! ### The registers behind MOVEC_EXT_CODES -/

/-- A register behind a code of MOVEC_EXT_CODES that is not FCR. -/
def isPlain (e : BitVec 12 × ExtReg) : Bool := e.2 matches .plain _

/-- The extended registers after a reset, their free values from number `k` on. -/
def extOrFree : Nat → List (BitVec 12 × ExtReg) → List (BitVec 12 × ExtReg)
  | _, [] => []
  | k, (code, .fcr) :: l => (code, .fcr) :: extOrFree k l
  | k, (code, .plain _) :: l => (code, .plain (s.free k)) :: extOrFree (k + 1) l

theorem drawExt_gathering (l : List (BitVec 12 × ExtReg)) :
    drawExt l (gathering s k) = .ok (extOrFree s k l) (gathering s (k + l.countP isPlain)) := by
  induction l generalizing k with
  | nil => rfl
  | cons e l ih =>
    obtain ⟨code, r⟩ := e
    cases r with
    | fcr =>
      rw [drawExt, M_bind_ok (ih k), List.countP_cons_of_neg (by simp [isPlain])]
      rfl
    | plain v =>
      rw [drawExt, M_bind_ok (draw_gathering s k), M_bind_ok (ih (k + 1)), List.countP_cons_of_pos rfl, Nat.add_assoc,
        Nat.add_comm 1]
      rfl

theorem extOrFree_length (l : List (BitVec 12 × ExtReg)) : (extOrFree s k l).length = l.length := by
  induction k, l using extOrFree.induct with
  | case1 k => rfl
  | case2 k code l ih => exact congrArg (· + 1) ih
  | case3 k code v l ih => exact congrArg (· + 1) ih

theorem extOrFree_fcr {l : List (BitVec 12 × ExtReg)} {n : Nat} {code : BitVec 12} (h : l[n]? = some (code, .fcr)) :
    (extOrFree s k l)[n]? = some (code, .fcr) := by
  induction l generalizing k n with
  | nil => cases h
  | cons e l ih =>
    obtain ⟨code', r⟩ := e
    cases n with
    | zero => cases h; rfl
    | succ n => cases r with
      | fcr => exact ih k h
      | plain v => exact ih (k + 1) h

/-- A plain register holds the free value whose number counts the plain ones before it. -/
theorem extOrFree_plain {l : List (BitVec 12 × ExtReg)} {n : Nat} {code : BitVec 12} {v : Long}
    (h : l[n]? = some (code, .plain v)) :
    (extOrFree s k l)[n]? = some (code, .plain (s.free (k + (l.take n).countP isPlain))) := by
  induction l generalizing k n with
  | nil => cases h
  | cons e l ih =>
    obtain ⟨code', r⟩ := e
    cases n with
    | zero => cases h; rfl
    | succ n => cases r with
      | fcr =>
        rw [List.take_succ_cons, List.countP_cons_of_neg (by simp [isPlain])]
        exact ih k h
      | plain w =>
        rw [List.take_succ_cons, List.countP_cons_of_pos rfl, ← Nat.add_assoc, Nat.add_right_comm]
        exact ih (k + 1) h

/-! ### The whole reset -/

/-- The number of the first free value of MC0: after those of the other contexts, FCR and the extended registers. -/
def masterDraws : Nat := drawsBefore s 5 + 1 + s.extRegs.countP isPlain

theorem drawCtxId_gathering : ∃ f : CtxId, f.val = (s.free k).toNat % 5 ∧
    drawCtxId (gathering s k) = .ok f (gathering s (k + 1)) :=
  ⟨⟨_, Nat.mod_lt _ (by decide)⟩, rfl, rfl⟩

/-- Context `j` of 1 to 4 after a reset. -/
def otherCtx (j : Fin 5) : Ctx := ctxOrFree s (drawsBefore s j.val) s.resetCtx[j.val]

theorem resetOther_next (i : Fin 4) : resetOther i.succ (gathering s (drawsBefore s (i.val + 1))) =
    .ok (otherCtx s i.succ) (gathering s (drawsBefore s (i.val + 2))) := by
  rw [resetOther_gathering, drawsBefore_succ s i.isLt]
  rfl

/-- The machine after a reset that drew `f` for FCR. -/
def resetDone (f : CtxId) : State :=
  { gathering s (masterDraws s + drawsFor s.resetCtx[0]) with
    ctxs := #v[masterCtx s (masterDraws s) s.resetCtx[0], otherCtx s 1, otherCtx s 2, otherCtx s 3, otherCtx s 4]
    fcr := f
    extRegs := extOrFree s (drawsBefore s 5 + 1) s.extRegs }

theorem hostReset_run (hread : vectorsReadable s) :
    ∃ f : CtxId, f.val = (s.free (drawsBefore s 5)).toNat % 5 ∧ hostReset s = resetDone s f := by
  obtain ⟨f, hf, hfcr⟩ := drawCtxId_gathering s (drawsBefore s 5)
  have ext := drawExt_gathering s (drawsBefore s 5 + 1) s.extRegs
  have master := resetMaster_gathering s (masterDraws s) hread
  have body : resetBody s = .ok () (resetDone s f) := by
    rw [resetBody, M_bind_update]
    exact (M_bind_ok (resetOther_next s 0) _).trans <| (M_bind_ok (resetOther_next s 1) _).trans <|
      (M_bind_ok (resetOther_next s 2) _).trans <| (M_bind_ok (resetOther_next s 3) _).trans <|
      (M_bind_ok hfcr _).trans <| (M_bind_ok ext _).trans <| M_bind_ok master _
  exact ⟨f, hf, by rw [hostReset, body]⟩

theorem resetDone_master (f : CtxId) : (resetDone s f).ctx = masterCtx s (masterDraws s) s.resetCtx[0] := rfl

/-- The contexts 1 to 4 after a reset. -/
theorem resetDone_other (f : CtxId) {j : Fin 5} (hj : j ≠ 0) : (resetDone s f).ctxs[j.val] = otherCtx s j := by
  match j with
  | 0 => exact absurd rfl hj
  | 1 => rfl
  | 2 => rfl
  | 3 => rfl
  | 4 => rfl

end

/-- Settles O9: the registers are gathered one context after the other, and the number of the first free value of each
is that of the values drawn before. -/
theorem resetLoadsVectors : Obligations.ResetLoadsVectors := by
  intro s drawn supplied before plain own sspAt pcAt hread
  obtain ⟨f, hf, run⟩ := hostReset_run s hread
  rw [run]
  refine ⟨rfl, rfl, rfl, rfl, fun hnone => ?_, fun c hc => ?_, fun j hj => ⟨fun hnone => ?_, fun c hc => ?_⟩, hf,
    extOrFree_length s _ _, fun n code h => extOrFree_fcr s _ h, fun n code v h => extOrFree_plain s _ h⟩
  · rw [resetDone_master, hnone]
    rfl
  · rw [resetDone_master, hc]
    rfl
  · rw [resetDone_other s f hj, otherCtx, hnone]
    rfl
  · rw [resetDone_other s f hj, otherCtx, hc]
    rfl

end Sys2Proof.Machine
